-- ==== Sys2Proof/Word.lean ====
section
/-! DEFINITION. The words of GF4 CORE: the widths the spec gives its data (30_encoding.md R80 to R84, R95). -/

namespace Sys2Proof

/-- A field symbol, an element of GF(4) as 2 bits: bit 1 is the coefficient of x, bit 0 of 1 (R80). -/
abbrev Sym := BitVec 2

/-- A message, 4 bits: two field symbols, the first in the high pair (R81). -/
abbrev Msg := BitVec 4

/-- A syndrome index, 4 bits: the two syndrome symbols, the first in the high pair (R83). -/
abbrev SyndIdx := BitVec 4

/-- A byte: a codeword, a received word, an error pattern or a result (R82, R84, R95). -/
abbrev Byte := BitVec 8

/-- A command word `cmd[11:0]` (R95). -/
abbrev Cmd := BitVec 12

end Sys2Proof
end

