-- ==== Sys2Proof/Syntax.lean ====
section
/-! DEFINITION. The 14 operations of the operation map (30_encoding.md R100), with their operands as the formats of R96 cut them
from the argument. -/

namespace Sys2Proof

/-- One operation, as the command word spells it (R96, R97, R100). A field index is the 3 bits of the word; whether it names a
field, and whether a value is legal, is R103's business (WellFormed.lean), not the syntax's. -/
inductive Instr where
  /-- `GFADD a, b` (R122). -/
  | gfadd (a b : Sym)
  /-- `GFMUL a, b` (R124). -/
  | gfmul (a b : Sym)
  /-- `ENCODE m` (R144). -/
  | encode (m : Msg)
  /-- `SYND B` (R164). -/
  | synd (b : Byte)
  /-- `ERRPAT s` (R167). -/
  | errpat (s : SyndIdx)
  /-- `CORRECT B` (R169). -/
  | correct (b : Byte)
  /-- `DECODE B` (R170). -/
  | decode (b : Byte)
  /-- `TXPOS` (R192). -/
  | txpos
  /-- `TXDEATH` (R196). -/
  | txdeath
  /-- `TXBALL` (R200). -/
  | txball
  /-- `INFORM m` (R204). -/
  | inform (m : Msg)
  /-- `RXBALL` (R231). -/
  | rxball
  /-- `RDB f` (R251). -/
  | rdb (f : BitVec 3)
  /-- `WRB f, v` (R253). -/
  | wrb (f : BitVec 3) (v : BitVec 4)
  deriving DecidableEq, Repr

/-- The operation's name in the operation map (R100). -/
def Instr.mnemonic : Instr → String
  | .gfadd _ _ => "GFADD"
  | .gfmul _ _ => "GFMUL"
  | .encode _ => "ENCODE"
  | .synd _ => "SYND"
  | .errpat _ => "ERRPAT"
  | .correct _ => "CORRECT"
  | .decode _ => "DECODE"
  | .txpos => "TXPOS"
  | .txdeath => "TXDEATH"
  | .txball => "TXBALL"
  | .inform _ => "INFORM"
  | .rxball => "RXBALL"
  | .rdb _ => "RDB"
  | .wrb _ _ => "WRB"

end Sys2Proof
end

