-- ==== Sys2Proof/Decode.lean ====
section
/-! DEFINITION. Command words: the operation map as a table of mask and match (30_encoding.md R95, R96, R100), the decoder, which
is total and rejects by name (R101, R102), the encoder, and the word the host's tables give. -/

namespace Sys2Proof

/-- One row of the operation map (R100): a word `w` selects it when `w & mask = matchBits`. -/
structure OpRow where
  mnemonic : String
  matchBits : Cmd
  mask : Cmd
  build : Cmd → Instr

/-- The operation map (R100), the operands cut from `arg = cmd[7:0]` as the formats of R96 say. -/
def opRows : List OpRow := [
  ⟨"GFADD", 0x100, 0xFF0, fun w => .gfadd (w.extractLsb' 2 2) (w.extractLsb' 0 2)⟩,
  ⟨"GFMUL", 0x200, 0xFF0, fun w => .gfmul (w.extractLsb' 2 2) (w.extractLsb' 0 2)⟩,
  ⟨"ENCODE", 0x300, 0xFF0, fun w => .encode (w.extractLsb' 0 4)⟩,
  ⟨"SYND", 0x400, 0xF00, fun w => .synd (w.extractLsb' 0 8)⟩,
  ⟨"ERRPAT", 0x500, 0xFF0, fun w => .errpat (w.extractLsb' 0 4)⟩,
  ⟨"CORRECT", 0x600, 0xF00, fun w => .correct (w.extractLsb' 0 8)⟩,
  ⟨"DECODE", 0x700, 0xF00, fun w => .decode (w.extractLsb' 0 8)⟩,
  ⟨"TXPOS", 0x800, 0xFFF, fun _ => .txpos⟩,
  ⟨"TXDEATH", 0x900, 0xFFF, fun _ => .txdeath⟩,
  ⟨"TXBALL", 0xA00, 0xFFF, fun _ => .txball⟩,
  ⟨"INFORM", 0xB00, 0xFF0, fun w => .inform (w.extractLsb' 0 4)⟩,
  ⟨"RXBALL", 0xC00, 0xFFF, fun _ => .rxball⟩,
  ⟨"RDB", 0xD00, 0xFF8, fun w => .rdb (w.extractLsb' 0 3)⟩,
  ⟨"WRB", 0xE00, 0xF80, fun w => .wrb (w.extractLsb' 4 3) (w.extractLsb' 0 4)⟩]

/-- Whether the word selects the row (R100). -/
def OpRow.selects (r : OpRow) (w : Cmd) : Bool := w &&& r.mask == r.matchBits

/-- Why a word is no operation. -/
inductive DecodeError where
  /-- The operation number is 0x0 or 0xF (R101, U1). -/
  | reservedOp (cmd : Cmd)
  /-- The operation number is valid and a reserved argument bit is 1 (R102, U2). -/
  | reservedArg (cmd : Cmd)
  deriving DecidableEq, Repr

/-- `op = cmd[11:8]` (R95). -/
def opOf (w : Cmd) : BitVec 4 := w.extractLsb' 8 4

/-- The decoder: total on every 12-bit word; a word that selects no row is reserved (R100 to R102). -/
def decode (w : Cmd) : Except DecodeError Instr :=
  match opRows.find? (fun r => r.selects w) with
  | some r => .ok (r.build w)
  | none => if opOf w == 0x0#4 || opOf w == 0xF#4 then .error (.reservedOp w) else .error (.reservedArg w)

/-- The encoder: the operation number in `cmd[11:8]`, the operands at the places of R96, every reserved bit 0. -/
def encode : Instr → Cmd
  | .gfadd a b => 0x10#8 ++ a ++ b
  | .gfmul a b => 0x20#8 ++ a ++ b
  | .encode m => 0x30#8 ++ m
  | .synd b => 0x4#4 ++ b
  | .errpat s => 0x50#8 ++ s
  | .correct b => 0x6#4 ++ b
  | .decode b => 0x7#4 ++ b
  | .txpos => 0x800#12
  | .txdeath => 0x900#12
  | .txball => 0xA00#12
  | .inform m => 0xB0#8 ++ m
  | .rxball => 0xC00#12
  | .rdb f => 0xD0#8 ++ 0#1 ++ f
  | .wrb f v => 0xE#4 ++ 0#1 ++ f ++ v

/-- The command word that a number of `nbits` bits puts on the 12 lines of the command port: bit 0 is `cmd[0]`. DESIGN CHOICE
(log entry 11): a bit above `cmd[11]` has no line and is not presented. -/
def portWord (nbits w : Nat) : Cmd := BitVec.ofNat 12 (w % 2 ^ nbits)

/-- The operation the decoder reads from a table row's bits, for the host's check of the opcode table. -/
def decodeTableWord (nbits w : Nat) : Option Instr := (decode (portWord nbits w)).toOption

end Sys2Proof
end

