-- ==== Sys2Proof/Machine/Constants.lean ====
section
/-! DEFINITION. The constants of the block: the protocol constants (00_scope.md R12), the numbers the spec decides (R14), the event
codes (44_frame_rx.md R232) and the five immutable tables (20_memory.md R51 to R56). -/

namespace Sys2Proof.Machine

/-- `WALL_MIN` (R12). -/
def wallMin : Int := 0

/-- `WALL_MAX` (R12). -/
def wallMax : Int := 6

/-- `COORD_OFFSET` (R12). -/
def coordOffset : Int := 1

/-- `DIR_OFFSET` (R12). -/
def dirOffset : Int := 2

/-- `MSG_GAME_START` (R12). -/
def msgGameStart : Msg := 1

/-- `MSG_ROUND_START` (R12). -/
def msgRoundStart : Msg := 2

/-- `MSG_DEATH` (R12). -/
def msgDeath : Msg := 15

/-- `DEATH_SENTINEL = MSG_DEATH - COORD_OFFSET = 14` (R12). -/
def deathSentinel : Int := 14

/-- `DIR_DOWN = -1`, the spec's decision D12 (R228). -/
def dirDown : Int := -1

/-- Reading the one entry at index `i` of a table (`MemRead(T, i, 1)`, R16). The widths of the indices keep every read inside
its table (R66), so the default is never used. -/
def tableRead {w : Nat} (t : List (BitVec w)) (i : Nat) : BitVec w := t.getD i 0

/-- Table `ADD`, entry `ADD[a][b]` at index `4a + b` (R51, R121). -/
def addTable : List Sym := [0, 1, 2, 3, 1, 0, 3, 2, 2, 3, 0, 1, 3, 2, 1, 0]

/-- Table `MUL`, entry `MUL[a][b]` at index `4a + b` (R52, R123). -/
def mulTable : List Sym := [0, 0, 0, 0, 0, 1, 2, 3, 0, 2, 3, 1, 0, 3, 1, 2]

/-- Table `G`, the generator matrix, entry `G[i][j]` at index `4i + j` (R53, R141). -/
def genTable : List Sym := [1, 1, 1, 1, 0, 1, 2, 3]

/-- Table `H`, the parity-check matrix, entry `H[i][j]` at index `2i + j` (R54, R161). -/
def parityTable : List Sym := [1, 0, 1, 1, 1, 2, 1, 3]

/-- Table `ERR`, the error-pattern representatives, entry `ERR[s]` at index `s` (R55, R166). -/
def errTable : List Byte :=
  [0x00, 0x05, 0x0A, 0x0F, 0x40, 0x10, 0x04, 0x01, 0x80, 0x02, 0x20, 0x08, 0xC0, 0x0C, 0x03, 0x30]

/-- What one receive step, and one `RXBALL`, reports (R230, R232). -/
inductive Event where
  /-- No byte was consumed. -/
  | none
  /-- A coordinate was accepted; the direction byte has not come yet. -/
  | pending
  /-- A position frame was completed and the five fields written. -/
  | commit
  /-- The death sentinel was received. -/
  | death
  /-- A byte taken in AWAIT_COORD was noise. -/
  | dropCoord
  /-- A byte taken in AWAIT_DIR was no legal direction; the frame was abandoned. -/
  | dropDir
  deriving DecidableEq, Repr

/-- The event codes of R232. -/
def eventCode : Event → Byte
  | .none => 0
  | .pending => 1
  | .commit => 2
  | .death => 3
  | .dropCoord => 4
  | .dropDir => 5

end Sys2Proof.Machine
end

