-- ==== Sys2Proof/Machine/Operands.lean ====
section
/-! DEFINITION. Operand forms: the symbols of a byte, a message and a syndrome index (30_encoding.md R80 to R84), the six fields
with their indices, widths and legal values (10_state.md R21), and the message values of a position frame (43_frame_tx.md R191). -/

namespace Sys2Proof.Machine

/-- `sym(B, i)` for `i` in 0..3: symbol 0 is bits 7:6, symbol 3 is bits 1:0 (R15, R82). -/
def sym (b : Byte) (i : Nat) : Sym := b.extractLsb' (6 - 2 * i) 2

/-- `pack(c0, c1, c2, c3)`, the most significant symbol first (R82). -/
def pack (c0 c1 c2 c3 : Sym) : Byte := c0 ++ c1 ++ c2 ++ c3

/-- The first symbol of a message, `a = m >> 2` (R81). -/
def msgFst (m : Msg) : Sym := m.extractLsb' 2 2

/-- The second symbol of a message, `b = m & 3` (R81). -/
def msgSnd (m : Msg) : Sym := m.extractLsb' 0 2

/-- Two symbols as a 4-bit value, the first the more significant: a message (R81) or a syndrome index (R83). -/
def pairSyms (a b : Sym) : BitVec 4 := a ++ b

/-- The Hamming weight `wt(B)`: how many of the four symbols are not 0 (R19). -/
def symWeight (b : Byte) : Nat :=
  (if sym b 0 = 0 then 0 else 1) + (if sym b 1 = 0 then 0 else 1) +
  (if sym b 2 = 0 then 0 else 1) + (if sym b 3 = 0 then 0 else 1)

/-- The distance `dist(A, B) = wt(A ^ B)` (R19). -/
def symDist (a b : Byte) : Nat := symWeight (a ^^^ b)

/-- The six fields of the ball-state record (R20, R21). -/
inductive Field where
  /-- `X`, index 0. -/
  | x
  /-- `Y`, index 1. -/
  | y
  /-- `DX`, index 2. -/
  | dx
  /-- `DY`, index 3. -/
  | dy
  /-- `ONSCR`, index 4. -/
  | onscr
  /-- `DEAD`, index 5. -/
  | dead
  deriving DecidableEq, Repr

/-- The field a 3-bit index names; 6 and 7 name none (R21). -/
def fieldOf (f : BitVec 3) : Option Field :=
  match f.toNat with
  | 0 => some .x
  | 1 => some .y
  | 2 => some .dx
  | 3 => some .dy
  | 4 => some .onscr
  | 5 => some .dead
  | _ => none

/-- Whether the raw 4-bit pattern `v` of a field write is legal for the field: the field's legal values (R21), with nothing set
above the field's width (R97, R253). -/
def legalValue (height : Nat) (f : Field) (v : BitVec 4) : Bool :=
  match f with
  | .x => decide ((v.toNat : Int) ≤ wallMax)
  | .y => decide (v.toNat < height)
  | .dx => v == 0b0000#4 || v == 0b0001#4 || v == 0b0011#4
  | .dy => v == 0b0001#4 || v == 0b0011#4
  | .onscr => v == 0#4 || v == 1#4
  | .dead => v == 0#4 || v == 1#4

/-- Whether `m` is a control signal: game-start or round-start (R204). -/
def isControl (m : Msg) : Bool := m == msgGameStart || m == msgRoundStart

/-- `cm`, the coordinate message: `(WALL_MAX - x) + COORD_OFFSET`, on integers (R86, R191). -/
def coordMsg (x : BitVec 3) : Msg := BitVec.ofInt 4 (wallMax - x.toNat + coordOffset)

/-- `dm`, the direction message: `-dx + DIR_OFFSET`, on integers, `dx` read as two's complement (R87, R191). -/
def dirMsg (dx : BitVec 2) : Msg := BitVec.ofInt 4 (-dx.toInt + dirOffset)

/-- `v = m - COORD_OFFSET`, an integer in -1..14 (R222). -/
def coordOf (m : Msg) : Int := m.toNat - coordOffset

/-- `d = m - DIR_OFFSET`, an integer in -2..13 (R222). -/
def dirOf (m : Msg) : Int := m.toNat - dirOffset

end Sys2Proof.Machine
end

