-- ==== Sys2Proof/Machine/Codec.lean ====
section
/-! DEFINITION. The codec as pure functions: field arithmetic (40_field_arithmetic.md R121, R123), the encoder (41_encoder.md R143),
the syndrome calculator, the error-pattern look-up, the corrector and the decoder (42_decoder.md R163 to R170). -/

namespace Sys2Proof.Machine

/-- `gfadd(a, b) = ADD[a][b]` (R51, R121). -/
def gfadd (a b : Sym) : Sym := tableRead addTable (4 * a.toNat + b.toNat)

/-- `gfmul(a, b) = MUL[a][b]` (R52, R123). -/
def gfmul (a b : Sym) : Sym := tableRead mulTable (4 * a.toNat + b.toNat)

/-- `G[i][j]` (R53). -/
def genEntry (i j : Nat) : Sym := tableRead genTable (4 * i + j)

/-- `H[i][j]` (R54). -/
def parityEntry (i j : Nat) : Sym := tableRead parityTable (2 * i + j)

/-- `ERR[s]` (R55). -/
def errEntry (s : SyndIdx) : Byte := tableRead errTable s.toNat

/-- Codeword symbol `j` of the message `[a, b]`: a dot product with column `j` of `G` (R17, R143 step 2). -/
def codeSym (a b : Sym) (j : Nat) : Sym := gfadd (gfmul a (genEntry 0 j)) (gfmul b (genEntry 1 j))

/-- `encode(m)` (R143). -/
def encodeMsg (m : Msg) : Byte :=
  pack (codeSym (msgFst m) (msgSnd m) 0) (codeSym (msgFst m) (msgSnd m) 1)
    (codeSym (msgFst m) (msgSnd m) 2) (codeSym (msgFst m) (msgSnd m) 3)

/-- Syndrome symbol `j` of the received word: a dot product with column `j` of `H` (R163). -/
def syndSym (b : Byte) (j : Nat) : Sym :=
  gfadd (gfadd (gfmul (sym b 0) (parityEntry 0 j)) (gfmul (sym b 1) (parityEntry 1 j)))
    (gfadd (gfmul (sym b 2) (parityEntry 2 j)) (gfmul (sym b 3) (parityEntry 3 j)))

/-- `synd(B) = 4*s0 + s1` (R163, R83). -/
def syndrome (b : Byte) : SyndIdx := pairSyms (syndSym b 0) (syndSym b 1)

/-- `correct(B) = B ^ ERR[synd(B)]` (R168, R169). -/
def correctWord (b : Byte) : Byte := b ^^^ errEntry (syndrome b)

/-- Message extraction from a corrected codeword: `a = c[0]`, `b = c[1] - c[0]` (R160 step 5, R170). -/
def extractMsg (c : Byte) : Msg := pairSyms (sym c 0) (gfadd (sym c 1) (sym c 0))

/-- `decode(B)` (R170). -/
def decodeByte (b : Byte) : Msg := extractMsg (correctWord b)

end Sys2Proof.Machine
end

