-- ==== Sys2Proof/Config.lean ====
section
/-! DEFINITION. What the spec leaves open for the machine: `HEIGHT`, the content of `RXQ` at reset, and the values of reads the
spec does not define. All are opaque: nothing can be proved of their values, so a claim holds for every one of them. -/

namespace Sys2Proof

/-- The top row of the playing field, `HEIGHT - 1`: the spec leaves `HEIGHT` open with `1 <= HEIGHT <= 16` (R13, U15, D11). -/
opaque Config.topRow : Fin 16

/-- `HEIGHT`, the number of rows (R13). -/
def Config.height : Nat := Config.topRow.val + 1

/-- What stands in `RXQ` at reset: any byte sequence (R61, U16). DESIGN CHOICE (log entry 17): one constant, so two devices started
from `State.reset` have the same sequence, which the spec does not say. -/
opaque Config.rxqAtReset : List Byte

/-- DESIGN CHOICE (log entry 4): the bits that the `n`-th read of a never-written field gives. The spec defines no result for
such a read and forbids a model to pick one (R25, U7). DESIGN CHOICE (log entry 17): one function serves every device, so reads of
two devices at the same `n` give the same bits, which the spec does not say. -/
opaque Config.freeBits : Nat → BitVec 4

end Sys2Proof
end

