-- ==== Sys2Proof/Machine/State.lean ====
section
/-! DEFINITION. The state of one device: the block's registers (10_state.md R48), the transport's two queues (20_memory.md R58,
R59), and the model's own records of what host and link do and of what the host has been given. -/

namespace Sys2Proof.Machine

/-- A register of the ball-state record: its bits, and whether anything has written it since reset (R25). -/
structure Reg (w : Nat) where
  bits : BitVec w
  written : Bool
  deriving DecidableEq, Repr

/-- The ball-state record: six registers with the widths of R21. -/
structure Ball where
  x : Reg 3
  y : Reg 4
  dx : Reg 2
  dy : Reg 2
  onscr : Reg 1
  dead : Reg 1
  deriving DecidableEq, Repr

/-- The receive frame state `rxs` (R36). -/
inductive RxState where
  /-- AWAIT_COORD, `rxs` = 0: the next byte is a coordinate, a death sentinel or noise. -/
  | awaitCoord
  /-- AWAIT_DIR, `rxs` = 1: a coordinate has been accepted, the next byte is its direction. -/
  | awaitDir
  deriving DecidableEq, Repr

/-- One act of the host or the link on this device, in the order in which they happen (log entry 1). -/
inductive Input where
  /-- The host presents a command word (R95). -/
  | command (cmd : Cmd)
  /-- The host itself calls `has_byte_ready()` (R31, R63). -/
  | hostPoll
  /-- The host itself calls `receive_byte()` (R63). -/
  | hostTake
  /-- The link delivers one byte (R62, R70). -/
  | deliver (b : Byte)
  /-- The reset input is asserted (R291). -/
  | reset
  deriving DecidableEq, Repr

/-- One thing the host has been given (log entry 2). -/
inductive Reply where
  /-- The result `res` of an operation (R41, R98). -/
  | result (res : Byte)
  /-- The answer of the host's own `has_byte_ready()` (R59). -/
  | ready (r : Bool)
  /-- The byte of the host's own `receive_byte()` (R60, R63). -/
  | byte (b : Byte)
  deriving DecidableEq, Repr

/-- The whole state of one device. -/
structure State where
  /-- The ball-state record (R20). -/
  ball : Ball
  /-- The receive frame state (R36). -/
  rxs : RxState
  /-- The latched coordinate (R37). -/
  rxc : BitVec 3
  /-- `RXQ`, oldest first (R59). -/
  rxq : List Byte
  /-- `TXQ`, oldest first (R58). -/
  txq : List Byte
  /-- The model's own: the acts of host and link still to happen, the next one first (log entry 1). -/
  inputs : List Input
  /-- The model's own: what the host has been given, oldest first; no register of the block (R41, log entry 2). -/
  replies : List Reply
  /-- The model's own: how many free values this device has used (log entries 8 and 17). -/
  fresh : Nat
  deriving DecidableEq, Repr

/-- Why a step ends in a fault: there is no reason. The block has no exception (R260), and a read of a never-written field runs
with a free value (log entries 4 and 9). -/
inductive Fault where
  deriving DecidableEq, Repr

/-- Why a step is refused. All are safe: the model stops, and nothing is claimed beyond (R266). -/
inductive Refusal where
  /-- Raised by `exec` for an operation that has no meaning yet; no operation is left so. Safe. -/
  | notModelled (mnemonic : String)
  /-- Raised by `step` for a command word with operation number 0x0 or 0xF (R101, U1). Safe. -/
  | reservedOperation (cmd : Cmd)
  /-- Raised by `step` for a command word with a 1 in a reserved argument bit (R102, U2). Safe. -/
  | reservedArgument (cmd : Cmd)
  /-- Raised by `RDB` and `WRB` with field index 6 or 7 (R103, U3). Safe. -/
  | noSuchField (f : BitVec 3)
  /-- Raised by `WRB` with a value illegal for the field (R103, R253, U4). Safe. -/
  | illegalFieldValue (f : BitVec 3) (v : BitVec 4)
  /-- Raised by `INFORM` with a value other than 1 and 2 (R103, R204, U5). Safe. -/
  | reservedControlValue (m : Msg)
  /-- Raised by the host's own `receive_byte()` when `RXQ` is empty (R60, U8). Safe. -/
  | hostTakeOnEmpty
  deriving DecidableEq, Repr

/-- The three outcomes of a step of this machine. -/
abbrev Out := Host.Outcome State Fault Refusal

/-- DESIGN CHOICE (log entry 3): the record at reset. The spec gives no values (R25, R48); each is a legal value, and none can be
read before the field has been written. -/
def Ball.reset : Ball where
  x := ⟨0, false⟩
  y := ⟨0, false⟩
  dx := ⟨0b00, false⟩
  dy := ⟨0b11, false⟩
  onscr := ⟨0, false⟩
  dead := ⟨0, false⟩

/-- The device right after power-on reset: `rxs` is AWAIT_COORD, no field has been written (R290), `RXQ` holds any bytes and `TXQ`
is recorded from empty (R61, U16). `rxc` is log entry 5's value. DESIGN CHOICE (log entry 17): two devices that both start from this
state start with the same `RXQ` and the same counter of free values, though each may have any `RXQ` (U16) and they are reset
independently (R294). -/
def State.reset : State where
  ball := Ball.reset
  rxs := .awaitCoord
  rxc := 0
  rxq := Config.rxqAtReset
  txq := []
  inputs := []
  replies := []
  fresh := 0

end Sys2Proof.Machine
end

