-- ==== Sys2Proof/Machine/Flags.lean ====
section
/-! DEFINITION. The two flags, `ONSCR` and `DEAD` (10_state.md R30). Arithmetic and codec operations set no flag. -/

namespace Sys2Proof.Machine

/-- `ball[ONSCR] <- 1`, a completed position frame's flag write (R30, R227). -/
def setOnscr (b : Ball) : Ball := { b with onscr := ⟨1, true⟩ }

/-- `ball[DEAD] <- 1`, the death sentinel's flag write (R30, R225). -/
def setDead (b : Ball) : Ball := { b with dead := ⟨1, true⟩ }

end Sys2Proof.Machine
end

