-- ==== Sys2Proof/Machine/Ops.lean ====
section
/-! DEFINITION. The shared operations on the state: the result (00_scope.md R16), the transport's three calls (20_memory.md R58 to
R60), reading and writing the ball-state record (10_state.md R21, R25), the commit (44_frame_rx.md R227), and reset
(70_reset_and_hazards.md R290). The block takes no exception (60_exceptions.md R260, R268), so there is no operation for one. -/

namespace Sys2Proof.Machine

/-- `res <- v`: the 8-bit result goes to the host (R16, R41). -/
def reply (res : Byte) (s : State) : State := { s with replies := s.replies ++ [.result res] }

/-- `send(B)`: always accepted, appends at the end of `TXQ` (R58, R61). -/
def send (b : Byte) (s : State) : State := { s with txq := s.txq ++ [b] }

/-- `has_byte_ready()` (R59). -/
def hasByteReady (s : State) : Bool := !s.rxq.isEmpty

/-- `receive_byte()`: the oldest byte of `RXQ` and the state without it; none on an empty queue, which the block never asks
for (R60). -/
def receiveByte (s : State) : Option (Byte × State) :=
  match s.rxq with
  | [] => none
  | b :: rest => some (b, { s with rxq := rest })

/-- Reading one register of the record. DESIGN CHOICE (log entry 4): a register that nothing has written since reset gives a free
value, a new one at every read (R25, U7). DESIGN CHOICE (log entry 17): the value depends on this device's counter `fresh` alone, so
two devices whose counters agree read the same one; the spec relates nothing between them (R9, R280, R293). -/
def readReg {w : Nat} (r : Reg w) (s : State) : BitVec w × State :=
  if r.written then (r.bits, s)
  else ((Config.freeBits s.fresh).setWidth w, { s with fresh := s.fresh + 1 })

/-- Reading one field as 8 bits, zero-extended (R251). -/
def readField (f : Field) (s : State) : Byte × State :=
  match f with
  | .x => ((readReg s.ball.x s).1.setWidth 8, (readReg s.ball.x s).2)
  | .y => ((readReg s.ball.y s).1.setWidth 8, (readReg s.ball.y s).2)
  | .dx => ((readReg s.ball.dx s).1.setWidth 8, (readReg s.ball.dx s).2)
  | .dy => ((readReg s.ball.dy s).1.setWidth 8, (readReg s.ball.dy s).2)
  | .onscr => ((readReg s.ball.onscr s).1.setWidth 8, (readReg s.ball.onscr s).2)
  | .dead => ((readReg s.ball.dead s).1.setWidth 8, (readReg s.ball.dead s).2)

/-- The record with one field written from a right-aligned bit pattern; the field counts as written from then on (R253). -/
def writeField (f : Field) (v : BitVec 4) (b : Ball) : Ball :=
  match f with
  | .x => { b with x := ⟨v.setWidth 3, true⟩ }
  | .y => { b with y := ⟨v, true⟩ }
  | .dx => { b with dx := ⟨v.setWidth 2, true⟩ }
  | .dy => { b with dy := ⟨v.setWidth 2, true⟩ }
  | .onscr => { b with onscr := ⟨v.setWidth 1, true⟩ }
  | .dead => { b with dead := ⟨v.setWidth 1, true⟩ }

/-- The commit of a position frame: five fields in one step, `DEAD` left alone (R72, R227, R228). -/
def commitBall (rxc : BitVec 3) (d : Int) (b : Ball) : Ball :=
  setOnscr { b with
    x := ⟨rxc, true⟩
    dx := ⟨BitVec.ofInt 2 d, true⟩
    y := ⟨BitVec.ofNat 4 (Config.height - 1), true⟩
    dy := ⟨BitVec.ofInt 2 dirDown, true⟩ }

/-- Reset of the block: `rxs` to AWAIT_COORD, no field written any more; the queues are not touched (R290). -/
def resetBlock (s : State) : State := { s with ball := Ball.reset, rxs := .awaitCoord, rxc := 0 }

/-- The link delivers one byte at the end of `RXQ` (R61, R70). -/
def linkDeliver (b : Byte) (s : State) : State := { s with rxq := s.rxq ++ [b] }

/-- The host's own `has_byte_ready()`: it changes nothing but what the host knows (R59, R63). -/
def hostPoll (s : State) : Out := .next { s with replies := s.replies ++ [.ready (hasByteReady s)] }

/-- The host's own `receive_byte()`: it takes the oldest byte of the same `RXQ` (R63); on an empty queue it is refused (U8). -/
def hostTake (s : State) : Out :=
  match receiveByte s with
  | none => .refused .hostTakeOnEmpty
  | some (b, t) => .next { t with replies := t.replies ++ [.byte b] }

/-- The host presents a number of `nbits` bits on the command port, before anything else that is still to happen. -/
def presentWord (nbits w : Nat) (s : State) : State := { s with inputs := .command (portWord nbits w) :: s.inputs }

/-- The refusal a rejected command word stops with (R101, R102). -/
def refusalOf : DecodeError → Refusal
  | .reservedOp w => .reservedOperation w
  | .reservedArg w => .reservedArgument w

end Sys2Proof.Machine
end

