-- ==== Sys2Proof/Machine/BlockCode.lean ====
section
/-! DEFINITION. The block-code operations `ENCODE` (41_encoder.md), `SYND`, `ERRPAT`, `CORRECT`, `DECODE` (42_decoder.md). -/

namespace Sys2Proof.Machine

/-- `ENCODE m`: only computes the byte, sends nothing (R144). -/
def execEncode (m : Msg) (s : State) : Out := .next (reply (encodeMsg m) s)

/-- `SYND B` (R164). -/
def execSynd (b : Byte) (s : State) : Out := .next (reply ((syndrome b).setWidth 8) s)

/-- `ERRPAT s` (R167). -/
def execErrpat (i : SyndIdx) (s : State) : Out := .next (reply (errEntry i) s)

/-- `CORRECT B` (R169). -/
def execCorrect (b : Byte) (s : State) : Out := .next (reply (correctWord b) s)

/-- `DECODE B` (R170). -/
def execDecode (b : Byte) (s : State) : Out := .next (reply ((decodeByte b).setWidth 8) s)

end Sys2Proof.Machine
end

