-- ==== Sys2Proof/Machine/FieldArithmetic.lean ====
section
/-! DEFINITION. The field-arithmetic operations `GFADD`, `GFMUL` (40_field_arithmetic.md). -/

namespace Sys2Proof.Machine

/-- `GFADD a, b` (R122). -/
def execGfadd (a b : Sym) (s : State) : Out := .next (reply ((gfadd a b).setWidth 8) s)

/-- `GFMUL a, b` (R124). -/
def execGfmul (a b : Sym) (s : State) : Out := .next (reply ((gfmul a b).setWidth 8) s)

end Sys2Proof.Machine
end

