-- ==== Sys2Proof/Machine/FrameRx.lean ====
section
/-! DEFINITION. The frame deserializer: the receive state machine and `RXBALL` (44_frame_rx.md). -/

namespace Sys2Proof.Machine

/-- A message taken in AWAIT_COORD: coordinate, death sentinel or noise; both wall bounds are tested (R223 to R225, R229). -/
def takeCoord (m : Msg) (s : State) : Event × State :=
  let v := coordOf m
  if wallMin ≤ v ∧ v ≤ wallMax then (.pending, { s with rxc := BitVec.ofInt 3 v, rxs := .awaitDir })
  else if v = deathSentinel then (.death, { s with ball := setDead s.ball })
  else (.dropCoord, s)

/-- A message taken in AWAIT_DIR: always the direction of the frame in progress; the frame is committed or dropped, and `rxs`
returns to AWAIT_COORD in every case (R226, R227). -/
def takeDir (m : Msg) (s : State) : Event × State :=
  let d := dirOf m
  if -1 ≤ d ∧ d ≤ 1 then (.commit, { s with rxs := .awaitCoord, ball := commitBall s.rxc d s.ball })
  else (.dropDir, { s with rxs := .awaitCoord })

/-- One receive step, one row of R230 (`rx_step` of R231). -/
def rxStep (s : State) : Event × State :=
  match receiveByte s with
  | none => (.none, s)
  | some (b, t) =>
    match t.rxs with
    | .awaitCoord => takeCoord (decodeByte b) t
    | .awaitDir => takeDir (decodeByte b) t

/-- The event an `RXBALL` of two receive steps reports: the second step's, unless that is NONE (R232). -/
def secondEvent (e2 : Event) : Event :=
  match e2 with
  | .none => .pending
  | e => e

/-- One or two receive steps: a second one exactly when the first ended in PENDING (R233). -/
def rxSteps (s : State) : Event × State :=
  let r := rxStep s
  match r.1 with
  | .pending => (secondEvent (rxStep r.2).1, (rxStep r.2).2)
  | e => (e, r.2)

/-- `RXBALL` (R231). -/
def execRxball (s : State) : Out := .next (reply (eventCode (rxSteps s).1) (rxSteps s).2)

end Sys2Proof.Machine
end

