-- ==== Sys2Proof/Machine/FrameTx.lean ====
section
/-! DEFINITION. The frame serializer: `TXPOS`, `TXDEATH`, `TXBALL`, `INFORM` (43_frame_tx.md). -/

namespace Sys2Proof.Machine

/-- Sending a position frame for the field values read: the coordinate byte first, the direction byte second, result 2 (R192). -/
def sendPosition (x : BitVec 3) (dx : BitVec 2) (s : State) : State :=
  reply 2 (send (encodeMsg (dirMsg dx)) (send (encodeMsg (coordMsg x)) s))

/-- Reading `X`, then `DX`, and sending their position frame (R192). -/
def transmitPosition (s : State) : State :=
  let rx := readReg s.ball.x s
  let rd := readReg rx.2.ball.dx rx.2
  sendPosition rx.1 rd.1 rd.2

/-- Sending the death sentinel, result 1 (R196). -/
def transmitDeath (s : State) : State := reply 1 (send (encodeMsg msgDeath) s)

/-- `TXPOS` (R192). -/
def execTxpos (s : State) : Out := .next (transmitPosition s)

/-- `TXDEATH` (R196). -/
def execTxdeath (s : State) : Out := .next (transmitDeath s)

/-- `TXBALL`: reads `DEAD`, and does `TXDEATH` when it is 1, `TXPOS` otherwise (R200). -/
def execTxball (s : State) : Out :=
  let rd := readReg s.ball.dead s
  .next (if rd.1 = 1 then transmitDeath rd.2 else transmitPosition rd.2)

/-- `INFORM m` (R204). -/
def execInform (m : Msg) (s : State) : Out :=
  if isControl m then .next (reply 1 (send (encodeMsg m) s)) else .refused (.reservedControlValue m)

end Sys2Proof.Machine
end

