-- ==== Sys2Proof/Machine/HostAccess.lean ====
section
/-! DEFINITION. Host access to the ball-state record: `RDB`, `WRB` (45_host_access.md). -/

namespace Sys2Proof.Machine

/-- `RDB f` (R251). -/
def execRdb (f : BitVec 3) (s : State) : Out :=
  match fieldOf f with
  | none => .refused (.noSuchField f)
  | some fd => .next (reply (readField fd s).1 (readField fd s).2)

/-- `WRB f, v` (R253). -/
def execWrb (f : BitVec 3) (v : BitVec 4) (s : State) : Out :=
  match fieldOf f with
  | none => .refused (.noSuchField f)
  | some fd =>
    if legalValue Config.height fd v then .next (reply 0 { s with ball := writeField fd v s.ball })
    else .refused (.illegalFieldValue f v)

end Sys2Proof.Machine
end

