-- ==== Sys2Proof/Machine/Dispatch.lean ====
section
/-! DEFINITION. What each operation does, one arm per row of the operation map (30_encoding.md R100). -/

namespace Sys2Proof.Machine

def exec (i : Instr) (s : State) : Host.Outcome State Fault Refusal :=
  match i with
  | .gfadd a b => Sys2Proof.Machine.execGfadd a b s
  | .gfmul a b => Sys2Proof.Machine.execGfmul a b s
  | .encode m => Sys2Proof.Machine.execEncode m s
  | .synd b => Sys2Proof.Machine.execSynd b s
  | .errpat k => Sys2Proof.Machine.execErrpat k s
  | .correct b => Sys2Proof.Machine.execCorrect b s
  | .decode b => Sys2Proof.Machine.execDecode b s
  | .txpos => Sys2Proof.Machine.execTxpos s
  | .txdeath => Sys2Proof.Machine.execTxdeath s
  | .txball => Sys2Proof.Machine.execTxball s
  | .inform m => Sys2Proof.Machine.execInform m s
  | .rxball => Sys2Proof.Machine.execRxball s
  | .rdb f => Sys2Proof.Machine.execRdb f s
  | .wrb f v => Sys2Proof.Machine.execWrb f v s

end Sys2Proof.Machine
end

