-- ==== Sys2Proof/Machine/Step.lean ====
section
/-! DEFINITION. One step of one device: the oldest act of the host or the link that has still to happen (00_scope.md R8, R9;
20_memory.md R70). -/

namespace Sys2Proof.Machine

/-- One step. A command word is decoded and its operation runs to completion (R8, R35); a reserved word is refused (R101, R102);
the host's own transport calls (R63), a delivery by the link (R70) and reset (R291) act on the same state. With nothing to happen
the block does nothing (R292). -/
def step (s : State) : Host.Outcome State Fault Refusal :=
  match s.inputs with
  | [] => .next s
  | .command w :: rest =>
    match decode w with
    | .ok i => exec i { s with inputs := rest }
    | .error e => .refused (refusalOf e)
  | .hostPoll :: rest => hostPoll { s with inputs := rest }
  | .hostTake :: rest => hostTake { s with inputs := rest }
  | .deliver b :: rest => .next (linkDeliver b { s with inputs := rest })
  | .reset :: rest => .next (resetBlock { s with inputs := rest })

/-- The state with the instruction of `nbits` bits presented on the command port, so that the next step runs it. -/
def State.withFetchWord (s : State) (nbits w : Nat) : State := presentWord nbits w s

end Sys2Proof.Machine
end

