-- ==== Sys2Proof/Machine/System.lean ====
section
/-! DEFINITION. The two-device system (60_exceptions.md R280, R281) and the link between the devices (20_memory.md R62, R74). -/

namespace Sys2Proof.Machine

/-- A link behaviour: which byte sequences may be delivered when a byte sequence was sent (R62). -/
abbrev Link := List Byte → List Byte → Prop

/-- `LINK_PERFECT`: every sent byte is delivered once, unchanged, in order (R62). -/
def linkPerfect : Link := fun sent got => got = sent

/-- `LINK_1SYM`: every sent byte is delivered once, in order, with at most one of its four symbols changed (R62). -/
def linkOneSym : Link := fun sent got => List.Forall₂ (fun s g => symDist s g ≤ 1) sent got

/-- `LINK_ANY`: any byte sequence may be delivered (R62). -/
def linkAny : Link := fun _ _ => True

/-- What a link may have delivered so far: the first part of a delivery it allows. DESIGN CHOICE (log entry 13): a delivery may lag
behind, for ever (R310). -/
def deliveredSoFar (link : Link) (sent got : List Byte) : Prop := ∃ whole, link sent whole ∧ got <+: whole

/-- Two devices, each with its own block and queues (R280), and all that the link has delivered to each. DESIGN CHOICE (log entry
17): both draw their free values from the one `Config.freeBits`, each by its own counter. -/
structure System where
  a : State
  b : State
  toA : List Byte
  toB : List Byte
  deriving DecidableEq, Repr

/-- What one host may do on its own device: everything but a delivery, which is the link's (R9). -/
def Input.isHosts : Input → Bool
  | .command _ => true
  | .hostPoll => true
  | .hostTake => true
  | .deliver _ => false
  | .reset => true

/-- One device's next step, taken at the host's act `i` (R8, R9). -/
def actOn (i : Input) (s : State) : Out := step { s with inputs := i :: s.inputs }

/-- One step of the two-device system: an act of either host, or a delivery the link allows, in any interleaving (R281). -/
inductive SystemStep (link : Link) : System → System → Prop where
  /-- Device A's host acts. -/
  | hostA (y : System) (i : Input) (a' : State) : i.isHosts = true → actOn i y.a = .next a' →
      SystemStep link y { y with a := a' }
  /-- Device B's host acts. -/
  | hostB (y : System) (i : Input) (b' : State) : i.isHosts = true → actOn i y.b = .next b' →
      SystemStep link y { y with b := b' }
  /-- The link delivers a byte to B, out of what A has sent. -/
  | linkToB (y : System) (g : Byte) : deliveredSoFar link y.a.txq (y.toB ++ [g]) →
      SystemStep link y { y with b := linkDeliver g y.b, toB := y.toB ++ [g] }
  /-- The link delivers a byte to A, out of what B has sent. -/
  | linkToA (y : System) (g : Byte) : deliveredSoFar link y.b.txq (y.toA ++ [g]) →
      SystemStep link y { y with a := linkDeliver g y.a, toA := y.toA ++ [g] }

/-- Runs of the system: any number of steps. -/
inductive SystemRun (link : Link) : System → System → Prop where
  /-- No step. -/
  | refl (y : System) : SystemRun link y y
  /-- One step more. -/
  | tail (y z w : System) : SystemRun link y z → SystemStep link z w → SystemRun link y w

end Sys2Proof.Machine
end

