-- ==== Sys2Proof/Safety.lean ====
section
/-! DEFINITION. The terms claims use: a legal record, the machine's invariant, and the reads the spec calls undefined. -/

namespace Sys2Proof.Machine

/-- Every field holds a legal value (10_state.md R21, R22). -/
def Ball.legal (height : Nat) (b : Ball) : Prop :=
  legalValue height .x (b.x.bits.setWidth 4) = true ∧ legalValue height .y b.y.bits = true ∧
  legalValue height .dx (b.dx.bits.setWidth 4) = true ∧ legalValue height .dy (b.dy.bits.setWidth 4) = true ∧
  legalValue height .onscr (b.onscr.bits.setWidth 4) = true ∧ legalValue height .dead (b.dead.bits.setWidth 4) = true

/-- The machine's invariant: the record is legal (R22), and while a frame is in progress the latched coordinate is one (R37). -/
def State.inv (s : State) : Prop :=
  s.ball.legal Config.height ∧ (s.rxs = .awaitDir → (s.rxc.toNat : Int) ≤ wallMax)

/-- Whether a field has been written since reset (R25). -/
def Ball.isWritten (b : Ball) : Field → Bool
  | .x => b.x.written
  | .y => b.y.written
  | .dx => b.dx.written
  | .dy => b.dy.written
  | .onscr => b.onscr.written
  | .dead => b.dead.written

/-- Whether every field the operation reads has been written since reset (R23, R293): where this is false, R25 calls the read
undefined, and the model runs it with a free value (log entry 4). -/
def readsDefined (i : Instr) (s : State) : Bool :=
  match i with
  | .gfadd _ _ => true
  | .gfmul _ _ => true
  | .encode _ => true
  | .synd _ => true
  | .errpat _ => true
  | .correct _ => true
  | .decode _ => true
  | .txpos => s.ball.x.written && s.ball.dx.written
  | .txdeath => true
  | .txball => s.ball.dead.written && (s.ball.dead.bits == 1 || (s.ball.x.written && s.ball.dx.written))
  | .inform _ => true
  | .rxball => true
  | .rdb f => (fieldOf f).all fun fd => s.ball.isWritten fd
  | .wrb _ _ => true

end Sys2Proof.Machine
end

