-- ==== Sys2Proof/WellFormed.lean ====
section
/-! DEFINITION. Which operations carry operand values inside their domain (30_encoding.md R103). -/

namespace Sys2Proof

/-- The operand check of R103 for a playing field of `height` rows: `RDB` and `WRB` name a field, `WRB` a legal value, `INFORM` a
control value; every other operation is total on its operands. -/
def wellFormedAt (height : Nat) : Instr → Bool
  | .gfadd _ _ => true
  | .gfmul _ _ => true
  | .encode _ => true
  | .synd _ => true
  | .errpat _ => true
  | .correct _ => true
  | .decode _ => true
  | .txpos => true
  | .txdeath => true
  | .txball => true
  | .inform m => Machine.isControl m
  | .rxball => true
  | .rdb f => (Machine.fieldOf f).isSome
  | .wrb f v => (Machine.fieldOf f).any fun fd => Machine.legalValue height fd v

/-- The operand check of R103 for this machine's `HEIGHT`. -/
def wellFormed (i : Instr) : Bool := wellFormedAt Config.height i

end Sys2Proof
end

