-- ==== Sys2Proof/Certificates/Slice0/Obligations.lean ====
section
/-! DEFINITION. The statements for the provers. An operation's result is what it appends to `replies` (log entry 2); a field's
`written` mark is the spec's 'written since reset' (R25). An equation `exec i s = .next { s with ... }` says the whole effect: every
part of the state that the braces do not name is unchanged. The block has no memory, no program counter and no exception state, so
a frame is about the six fields, `rxs`, `rxc`, the two queues and the model's own fields. -/

open Sys2Proof Sys2Proof.Machine

/-! ### Command words and the step -/

/-- Decode and encode agree on every operation, with every operand (R95, R96, R100). -/
def Obligations.DecodeOfEncodeIsTheOperation : Prop :=
  ∀ i : Instr, decode (encode i) = .ok i

/-- A word that decodes to an operation is the word the encoder gives it: no other word names it, and no reserved bit is dropped
(R96, R100, R102). -/
def Obligations.OnlyItsOwnWordNamesAnOperation : Prop :=
  ∀ (w : Cmd) (i : Instr), decode w = .ok i → encode i = w

/-- R101: operation numbers 0x0 and 0xF name no operation; such a word is refused. -/
def Obligations.ReservedOperationNumbersRefused : Prop :=
  ∀ (s : State) (w : Cmd) (rest : List Input), s.inputs = .command w :: rest →
    (w.extractLsb' 8 4 = 0x0#4 ∨ w.extractLsb' 8 4 = 0xF#4) → step s = .refused (.reservedOperation w)

/-- R102: a valid operation number with a 1 in a bit of `arg` that the operation's format leaves reserved (R96) is refused. -/
def Obligations.ReservedArgumentBitsRefused : Prop :=
  ∀ (s : State) (w : Cmd) (rest : List Input), s.inputs = .command w :: rest →
    ((w.extractLsb' 8 4 ∈ [0x1#4, 0x2#4, 0x3#4, 0x5#4, 0xB#4] ∧ w.extractLsb' 4 4 ≠ 0#4) ∨
      (w.extractLsb' 8 4 ∈ [0x8#4, 0x9#4, 0xA#4, 0xC#4] ∧ w.extractLsb' 0 8 ≠ 0#8) ∨
      (w.extractLsb' 8 4 = 0xD#4 ∧ w.extractLsb' 3 5 ≠ 0#5) ∨
      (w.extractLsb' 8 4 = 0xE#4 ∧ w.extractLsb' 7 1 ≠ 0#1)) →
    step s = .refused (.reservedArgument w)

/-- The words the spec writes out in its examples decode to the operations they stand for. -/
def Obligations.WordsOfTheSpecDecode : Prop :=
  decode 0x10B = .ok (.gfadd 2 3) ∧ decode 0x20F = .ok (.gfmul 3 3) ∧ decode 0x306 = .ok (.encode 6) ∧
  decode 0x45D = .ok (.synd 0x5D) ∧ decode 0x50B = .ok (.errpat 11) ∧ decode 0x65D = .ok (.correct 0x5D) ∧
  decode 0x75D = .ok (.decode 0x5D) ∧ decode 0x800 = .ok .txpos ∧ decode 0x900 = .ok .txdeath ∧
  decode 0xA00 = .ok .txball ∧ decode 0xB02 = .ok (.inform 2) ∧ decode 0xC00 = .ok .rxball ∧
  decode 0xD02 = .ok (.rdb 2) ∧ decode 0xE23 = .ok (.wrb 2 3)

/-- A step on a command word that decodes to an operation is that operation on the state without the word (R8, R35; that the word
waits in `inputs` is log entry 1). -/
def Obligations.StepRunsTheDecodedOperation : Prop :=
  ∀ (s : State) (w : Cmd) (rest : List Input) (i : Instr), s.inputs = .command w :: rest → decode w = .ok i →
    step s = exec i { s with inputs := rest }

/-- With no act of host or link to happen the block does nothing, after reset and always (R292; the empty list is log entry 1's
form of 'no operation issued'). -/
def Obligations.NothingHappensUnasked : Prop :=
  step State.reset = .next State.reset ∧ ∀ s : State, s.inputs = [] → step s = .next s

/-! ### Field arithmetic -/

/-- R122: `GFADD a, b` is command `0x100 + 4a + b`, reads the table entry at `4a + b`, which is `a ^ b`, and touches no state. -/
def Obligations.GfaddGivesExclusiveOr : Prop :=
  ∀ (a b : Sym) (s : State),
    encode (.gfadd a b) = 0x100#12 + 4#12 * a.setWidth 12 + b.setWidth 12 ∧
    tableRead addTable (4 * a.toNat + b.toNat) = a ^^^ b ∧
    exec (.gfadd a b) s = .next { s with replies := s.replies ++ [.result ((a ^^^ b).setWidth 8)] }

/-- R124, with the product of R123: `GFMUL a, b` is command `0x200 + 4a + b` and gives the product of the two polynomials reduced
with x² = x + 1; it touches no state. -/
def Obligations.GfmulGivesPolynomialProduct : Prop :=
  ∀ (a b : Sym) (s : State),
    let high := ((a.getLsbD 1 && b.getLsbD 0) ^^ (a.getLsbD 0 && b.getLsbD 1)) ^^ (a.getLsbD 1 && b.getLsbD 1)
    let low := (a.getLsbD 0 && b.getLsbD 0) ^^ (a.getLsbD 1 && b.getLsbD 1)
    let product : Sym := BitVec.ofBool high ++ BitVec.ofBool low
    encode (.gfmul a b) = 0x200#12 + 4#12 * a.setWidth 12 + b.setWidth 12 ∧
    tableRead mulTable (4 * a.toNat + b.toNat) = product ∧
    exec (.gfmul a b) s = .next { s with replies := s.replies ++ [.result (product.setWidth 8)] }

/-- The laws of R126 (closure is the type): commutative, associative, identities, zero, distributive, characteristic 2, inverses,
no zero divisors, cubes, and the sums of all elements and of their squares. -/
def Obligations.FieldLaws : Prop :=
  (∀ a b : Sym, gfadd a b = gfadd b a ∧ gfmul a b = gfmul b a) ∧
  (∀ a b c : Sym, gfadd (gfadd a b) c = gfadd a (gfadd b c) ∧ gfmul (gfmul a b) c = gfmul a (gfmul b c) ∧
    gfmul a (gfadd b c) = gfadd (gfmul a b) (gfmul a c)) ∧
  (∀ a : Sym, gfadd a 0 = a ∧ gfmul a 1 = a ∧ gfmul a 0 = 0 ∧ gfadd a a = 0) ∧
  (gfmul 1 1 = 1 ∧ gfmul 2 3 = 1 ∧ gfmul 3 2 = 1) ∧
  (∀ a b : Sym, gfmul a b = 0 → a = 0 ∨ b = 0) ∧
  (∀ a : Sym, a ≠ 0 → gfmul a (gfmul a a) = 1) ∧
  (gfmul 0 0 = 0 ∧ gfmul 2 2 = 3 ∧ gfmul 3 3 = 2) ∧
  (gfadd (gfadd 0 1) (gfadd 2 3) = 0 ∧
    gfadd (gfadd (gfmul 0 0) (gfmul 1 1)) (gfadd (gfmul 2 2) (gfmul 3 3)) = 0)

/-! ### Encoder -/

/-- R144, R145: `ENCODE m` is command `0x300 + m` and gives the symbols `a`, `a + b`, `a + 2b`, `a + 3b`; it touches no state and
sends nothing. -/
def Obligations.EncodeGivesTheCodeword : Prop :=
  ∀ (m : Msg) (s : State),
    let a : Sym := m.extractLsb' 2 2
    let b : Sym := m.extractLsb' 0 2
    let word : Byte := a ++ (a ^^^ b) ++ (a ^^^ gfmul b 2) ++ (a ^^^ gfmul b 3)
    encode (.encode m) = 0x300#12 + m.setWidth 12 ∧
    exec (.encode m) s = .next { s with replies := s.replies ++ [.result word] }

/-- R90: the 16 codeword bytes. -/
def Obligations.CodewordTable : Prop :=
  (List.range 16).map (fun m => encodeMsg (BitVec.ofNat 4 m)) =
    [0x00, 0x1B, 0x2D, 0x36, 0x55, 0x4E, 0x78, 0x63, 0xAA, 0xB1, 0x87, 0x9C, 0xFF, 0xE4, 0xD2, 0xC9]

/-- R146: the encoder is linear, injective, and any two codewords differ in at least three symbols; 12 non-zero codewords have
weight 3 and 3 have weight 4. -/
def Obligations.EncoderIsLinearWithDistanceThree : Prop :=
  (∀ m n : Msg, encodeMsg (m ^^^ n) = encodeMsg m ^^^ encodeMsg n) ∧
  (∀ (c : Sym) (m : Msg), ∀ j ∈ [0, 1, 2, 3],
    sym (encodeMsg (pairSyms (gfmul c (msgFst m)) (gfmul c (msgSnd m)))) j = gfmul c (sym (encodeMsg m) j)) ∧
  (∀ m n : Msg, encodeMsg m = encodeMsg n → m = n) ∧
  (∀ m n : Msg, m ≠ n → 3 ≤ symDist (encodeMsg m) (encodeMsg n)) ∧
  ((List.range 16).filter fun m => symWeight (encodeMsg (BitVec.ofNat 4 m)) == 3).length = 12 ∧
  ((List.range 16).filter fun m => symWeight (encodeMsg (BitVec.ofNat 4 m)) == 4).length = 3 ∧
  encodeMsg 0 = 0

/-! ### Decoder -/

/-- R164, with the closed form of R163: `SYND B` is command `0x400 + B`; `s0` is the sum of the four symbols, `s1` the sum of
symbol `i` times `i`; it touches no state. -/
def Obligations.SyndGivesTheSyndrome : Prop :=
  ∀ (b : Byte) (s : State),
    let s0 : Sym := b.extractLsb' 6 2 ^^^ b.extractLsb' 4 2 ^^^ b.extractLsb' 2 2 ^^^ b.extractLsb' 0 2
    let s1 : Sym := b.extractLsb' 4 2 ^^^ gfmul 2 (b.extractLsb' 2 2) ^^^ gfmul 3 (b.extractLsb' 0 2)
    encode (.synd b) = 0x400#12 + b.setWidth 12 ∧
    exec (.synd b) s = .next { s with replies := s.replies ++ [.result ((s0 ++ s1).setWidth 8)] }

/-- R162 and R165: the syndrome is linear, zero exactly on the codewords, so it depends on the corruption only; the error `e` in
symbol `i` has the syndrome `[e, e*i]`. -/
def Obligations.SyndromeSeesOnlyTheCorruption : Prop :=
  (∀ a b : Byte, syndrome (a ^^^ b) = syndrome a ^^^ syndrome b) ∧
  (∀ m : Msg, syndrome (encodeMsg m) = 0) ∧
  (∀ b : Byte, syndrome b = 0 → ∃ m : Msg, b = encodeMsg m) ∧
  (∀ (m : Msg) (b : Byte), syndrome (encodeMsg m ^^^ b) = syndrome b) ∧
  (∀ (i e : Sym), syndrome (e.setWidth 8 <<< (6 - 2 * i.toNat)) = e ++ gfmul e i)

/-- R167, with the entries of R166: `ERRPAT s` is command `0x500 + s` and gives the entry `s`, whose syndrome is `s`; it touches no
state. -/
def Obligations.ErrpatGivesTheEntry : Prop :=
  ∀ (k : SyndIdx) (s : State),
    let entry : Byte := [0x00, 0x05, 0x0A, 0x0F, 0x40, 0x10, 0x04, 0x01, 0x80, 0x02, 0x20, 0x08, 0xC0, 0x0C, 0x03, 0x30].getD
      k.toNat 0
    encode (.errpat k) = 0x500#12 + k.setWidth 12 ∧ syndrome entry = k ∧
    exec (.errpat k) s = .next { s with replies := s.replies ++ [.result entry] }

/-- R166's rule for the entries: the entry of a syndrome has that syndrome, and among the bytes of that syndrome it has the least
weight, then the least number. -/
def Obligations.ErrorPatternsAreLeast : Prop :=
  (∀ k : SyndIdx, syndrome (errEntry k) = k) ∧
  ∀ b : Byte, symWeight (errEntry (syndrome b)) < symWeight b ∨
    (symWeight (errEntry (syndrome b)) = symWeight b ∧ (errEntry (syndrome b)).toNat ≤ b.toNat)

/-- R169: `CORRECT B` is command `0x600 + B` and gives `B` with the entry of its syndrome added; it touches no state. -/
def Obligations.CorrectAddsTheErrorPattern : Prop :=
  ∀ (b : Byte) (s : State),
    encode (.correct b) = 0x600#12 + b.setWidth 12 ∧
    exec (.correct b) s = .next { s with replies := s.replies ++ [.result (b ^^^ errEntry (syndrome b))] }

/-- R169's corner cases: the corrected word is a codeword, correcting twice changes nothing more, a codeword is returned unchanged,
and a codeword's part of a received word passes through. -/
def Obligations.CorrectedWordsAreCodewords : Prop :=
  (∀ b : Byte, ∃ m : Msg, correctWord b = encodeMsg m) ∧
  (∀ b : Byte, correctWord (correctWord b) = correctWord b) ∧
  (∀ m : Msg, correctWord (encodeMsg m) = encodeMsg m) ∧
  (∀ (m : Msg) (e : Byte), correctWord (encodeMsg m ^^^ e) = encodeMsg m ^^^ correctWord e)

/-- R170: `DECODE B` is command `0x700 + B` and gives, from the corrected codeword `c`, the message `{c[0], c[1] + c[0]}`; it
touches no state. -/
def Obligations.DecodeGivesTheMessage : Prop :=
  ∀ (b : Byte) (s : State),
    let c : Byte := b ^^^ errEntry (syndrome b)
    let m : Msg := c.extractLsb' 6 2 ++ (c.extractLsb' 4 2 ^^^ c.extractLsb' 6 2)
    encode (.decode b) = 0x700#12 + b.setWidth 12 ∧
    exec (.decode b) s = .next { s with replies := s.replies ++ [.result (m.setWidth 8)] }

/-- R172: `DECODE` gives back the message from its codeword, and from its codeword with any one symbol changed in any way. -/
def Obligations.SingleSymbolErrorsAreCorrected : Prop :=
  ∀ (m : Msg) (s : State),
    exec (.decode (encodeMsg m)) s = .next { s with replies := s.replies ++ [.result (m.setWidth 8)] } ∧
    ∀ i e : Sym, e ≠ 0 →
      exec (.decode (encodeMsg m ^^^ (e.setWidth 8 <<< (6 - 2 * i.toNat)))) s =
        .next { s with replies := s.replies ++ [.result (m.setWidth 8)] }

/-- R173: a corruption `E` moves the decoded message by `decode(E)`, so the message comes through exactly when `E` is one of the 16
entries of `ERR`. -/
def Obligations.CorruptionMovesTheMessage : Prop :=
  ∀ (m : Msg) (e : Byte), decodeByte (encodeMsg m ^^^ e) = m ^^^ decodeByte e ∧
    (decodeByte (encodeMsg m ^^^ e) = m ↔ e ∈ errTable)

/-! ### Frame serializer -/

/-- R191: with `X` and `DX` written and legal, `TXPOS` sends the coordinate message `7 - x`, in 1..7, then the direction message
`2 - dx`, in 1..3, and gives 2; nothing else changes. -/
def Obligations.TxposSendsThePositionFrame : Prop :=
  ∀ s : State, s.ball.x.written = true → s.ball.dx.written = true → s.ball.x.bits.toNat ≤ 6 → s.ball.dx.bits ≠ 0b10#2 →
    ∃ cm dm : Msg, (cm.toNat : Int) = 7 - s.ball.x.bits.toNat ∧ 1 ≤ cm.toNat ∧ cm.toNat ≤ 7 ∧
      (dm.toNat : Int) = 2 - s.ball.dx.bits.toInt ∧ 1 ≤ dm.toNat ∧ dm.toNat ≤ 3 ∧
      exec .txpos s = .next { s with
        txq := s.txq ++ [encodeMsg cm, encodeMsg dm]
        replies := s.replies ++ [.result 2] }

/-- THE MODEL'S CHOICE (log entry 4; R25 defines no result): in every state `TXPOS` sends one frame of two coded messages and gives
2; a field that has been written has its message, one that has not has any message, and only the counter of free values moves
besides. -/
def Obligations.TxposRunsOnUnwrittenFields : Prop :=
  ∀ s : State, ∃ (cm dm : Msg) (n : Nat),
    (s.ball.x.written = true → cm = BitVec.ofInt 4 (7 - s.ball.x.bits.toNat)) ∧
    (s.ball.dx.written = true → dm = BitVec.ofInt 4 (2 - s.ball.dx.bits.toInt)) ∧
    n = s.fresh + (if s.ball.x.written then 0 else 1) + (if s.ball.dx.written then 0 else 1) ∧
    exec .txpos s = .next { s with
      txq := s.txq ++ [encodeMsg cm, encodeMsg dm]
      replies := s.replies ++ [.result 2]
      fresh := n }

/-- R196: `TXDEATH` is command 0x900, sends the one byte 0xC9 and gives 1; nothing else changes, in every state. -/
def Obligations.TxdeathSendsTheSentinel : Prop :=
  encode .txdeath = 0x900#12 ∧ encodeMsg 15 = 0xC9#8 ∧
  ∀ s : State, exec .txdeath s = .next { s with
    txq := s.txq ++ [0xC9#8]
    replies := s.replies ++ [.result 1] }

/-- R200 on a written `DEAD`: 1 sends the sentinel whatever the other fields hold; 0, with `X` and `DX` written, sends the position
frame. -/
def Obligations.TxballChoosesOnTheDeadFlag : Prop :=
  ∀ s : State, s.ball.dead.written = true →
    (s.ball.dead.bits = 1#1 → exec .txball s = .next { s with
      txq := s.txq ++ [0xC9#8]
      replies := s.replies ++ [.result 1] }) ∧
    (s.ball.dead.bits = 0#1 → s.ball.x.written = true → s.ball.dx.written = true → exec .txball s = .next { s with
      txq := s.txq ++ [encodeMsg (BitVec.ofInt 4 (7 - s.ball.x.bits.toNat)),
        encodeMsg (BitVec.ofInt 4 (2 - s.ball.dx.bits.toInt))]
      replies := s.replies ++ [.result 2] })

/-- THE MODEL'S CHOICE (log entry 4; R25 defines no result): with a `DEAD` that nothing has written, or with `DEAD` 0 and `X` or
`DX` not written, `TXBALL` still sends one sentinel or one position frame; a written field has its message, and only the counter
of free values moves besides. -/
def Obligations.TxballRunsOnUnwrittenFields : Prop :=
  ∀ s : State, (s.ball.dead.written = false ∨ s.ball.dead.bits = 0#1) → ∃ n : Nat, s.fresh ≤ n ∧ n ≤ s.fresh + 3 ∧
    ((s.ball.dead.written = false ∧ exec .txball s = .next { s with
      txq := s.txq ++ [0xC9#8]
      replies := s.replies ++ [.result 1]
      fresh := n }) ∨
    (∃ cm dm : Msg, (s.ball.x.written = true → cm = BitVec.ofInt 4 (7 - s.ball.x.bits.toNat)) ∧
      (s.ball.dx.written = true → dm = BitVec.ofInt 4 (2 - s.ball.dx.bits.toInt)) ∧
      exec .txball s = .next { s with
        txq := s.txq ++ [encodeMsg cm, encodeMsg dm]
        replies := s.replies ++ [.result 2]
        fresh := n }))

/-- R204: `INFORM 1` (0xB01) sends 0x1B, `INFORM 2` (0xB02) sends 0x2D, each gives 1 and changes nothing else; every other value is
refused. -/
def Obligations.InformSendsControlSignals : Prop :=
  encode (.inform 1) = 0xB01#12 ∧ encode (.inform 2) = 0xB02#12 ∧
  ∀ s : State,
    exec (.inform 1) s = .next { s with txq := s.txq ++ [0x1B#8], replies := s.replies ++ [.result 1] } ∧
    exec (.inform 2) s = .next { s with txq := s.txq ++ [0x2D#8], replies := s.replies ++ [.result 1] } ∧
    ∀ m : Msg, m ≠ 1 → m ≠ 2 → exec (.inform m) s = .refused (.reservedControlValue m)

/-- R206: no transmit operation writes a field, `rxs` or `rxc`, or reads or changes `RXQ`; it appends one or two bytes to `TXQ` and
gives their number (R98). -/
def Obligations.TransmitTouchesOnlyTheTransmitStream : Prop :=
  ∀ (i : Instr) (s t : State), (i = .txpos ∨ i = .txdeath ∨ i = .txball ∨ ∃ m, i = .inform m) → exec i s = .next t →
    t.ball = s.ball ∧ t.rxs = s.rxs ∧ t.rxc = s.rxc ∧ t.rxq = s.rxq ∧ t.inputs = s.inputs ∧
    (∃ sent : List Byte, t.txq = s.txq ++ sent ∧ 1 ≤ sent.length ∧ sent.length ≤ 2 ∧
      t.replies = s.replies ++ [.result (BitVec.ofNat 8 sent.length)]) ∧
    ∀ q : List Byte, exec i { s with rxq := q } = .next { t with rxq := q }

/-! ### Frame deserializer -/

/-- R221: with no byte ready `RXBALL` changes no state and consumes nothing; it gives 0 (NONE). -/
def Obligations.RxballWithNothingReady : Prop :=
  ∀ s : State, s.rxq = [] → exec .rxball s = .next { s with replies := s.replies ++ [.result 0] }

/-- R224: the receive step that takes a coordinate byte in AWAIT_COORD latches the coordinate and moves `rxs` to AWAIT_DIR; no field
of the record changes. With no further byte waiting that is all `RXBALL` does, and the result is 1 (PENDING). -/
def Obligations.RxballLatchesTheCoordinate : Prop :=
  ∀ (s : State) (b : Byte) (q : List Byte), s.rxs = .awaitCoord → s.rxq = b :: q →
    1 ≤ (decodeByte b).toNat → (decodeByte b).toNat ≤ 7 →
    rxStep s = (.pending, { s with
      rxc := BitVec.ofNat 3 ((decodeByte b).toNat - 1)
      rxs := .awaitDir
      rxq := q }) ∧
    (q = [] → exec .rxball s = .next { s with
      rxc := BitVec.ofNat 3 ((decodeByte b).toNat - 1)
      rxs := .awaitDir
      rxq := []
      replies := s.replies ++ [.result 1] })

/-- R225: the death sentinel taken in AWAIT_COORD sets `DEAD` and nothing else; one byte is taken, the result is 3 (DEATH). -/
def Obligations.RxballSetsDeadOnTheSentinel : Prop :=
  ∀ (s : State) (b : Byte) (q : List Byte), s.rxs = .awaitCoord → s.rxq = b :: q → decodeByte b = 15 →
    exec .rxball s = .next { s with
      ball := { s.ball with dead := ⟨1, true⟩ }
      rxq := q
      replies := s.replies ++ [.result 3] }

/-- R229: noise taken in AWAIT_COORD is consumed and discarded; no state changes and no second byte is taken; the result is 4
(DROP_COORD). -/
def Obligations.RxballDropsNoise : Prop :=
  ∀ (s : State) (b : Byte) (q : List Byte), s.rxs = .awaitCoord → s.rxq = b :: q →
    (decodeByte b = 0 ∨ (8 ≤ (decodeByte b).toNat ∧ (decodeByte b).toNat ≤ 14)) →
    exec .rxball s = .next { s with rxq := q, replies := s.replies ++ [.result 4] }

/-- R227 for a byte taken in AWAIT_DIR, with the values of R228: a direction in -1..1 commits the five fields in one step and leaves
`DEAD` alone (result 2, COMMIT); anything else, the sentinel included (R226), drops the frame (result 5, DROP_DIR); `rxs` returns to
AWAIT_COORD either way, and no further byte is taken. -/
def Obligations.RxballTakesTheDirection : Prop :=
  ∀ (s : State) (b : Byte) (q : List Byte), s.rxs = .awaitDir → s.rxq = b :: q →
    (1 ≤ (decodeByte b).toNat → (decodeByte b).toNat ≤ 3 → exec .rxball s = .next { s with
      ball := {
        x := ⟨s.rxc, true⟩
        y := ⟨BitVec.ofNat 4 (Config.height - 1), true⟩
        dx := ⟨BitVec.ofInt 2 ((decodeByte b).toNat - 2), true⟩
        dy := ⟨0b11, true⟩
        onscr := ⟨1, true⟩
        dead := s.ball.dead }
      rxs := .awaitCoord
      rxq := q
      replies := s.replies ++ [.result 2] }) ∧
    (((decodeByte b).toNat = 0 ∨ 4 ≤ (decodeByte b).toNat) → exec .rxball s = .next { s with
      rxs := .awaitCoord
      rxq := q
      replies := s.replies ++ [.result 5] })

/-- R233: in AWAIT_COORD with a coordinate byte and a further byte waiting, one `RXBALL` takes both: a direction commits the frame,
anything else drops it; a third byte is left. -/
def Obligations.RxballTakesBothBytesOfAFrame : Prop :=
  ∀ (s : State) (b d : Byte) (q : List Byte), s.rxs = .awaitCoord → s.rxq = b :: d :: q →
    1 ≤ (decodeByte b).toNat → (decodeByte b).toNat ≤ 7 →
    (1 ≤ (decodeByte d).toNat → (decodeByte d).toNat ≤ 3 → exec .rxball s = .next { s with
      ball := {
        x := ⟨BitVec.ofNat 3 ((decodeByte b).toNat - 1), true⟩
        y := ⟨BitVec.ofNat 4 (Config.height - 1), true⟩
        dx := ⟨BitVec.ofInt 2 ((decodeByte d).toNat - 2), true⟩
        dy := ⟨0b11, true⟩
        onscr := ⟨1, true⟩
        dead := s.ball.dead }
      rxc := BitVec.ofNat 3 ((decodeByte b).toNat - 1)
      rxq := q
      replies := s.replies ++ [.result 2] }) ∧
    (((decodeByte d).toNat = 0 ∨ 4 ≤ (decodeByte d).toNat) → exec .rxball s = .next { s with
      rxc := BitVec.ofNat 3 ((decodeByte b).toNat - 1)
      rxq := q
      replies := s.replies ++ [.result 5] })

/-- `RXBALL` is total and never waits: in every state it gives one of the six event codes, takes at most two bytes from the front of
`RXQ`, at most one when it starts in AWAIT_DIR, and sends nothing (R231, R233, R310). -/
def Obligations.RxballIsTotalAndBounded : Prop :=
  ∀ s : State, ∃ (t : State) (k : Nat) (code : Byte), exec .rxball s = .next t ∧
    k ≤ 2 ∧ k ≤ s.rxq.length ∧ (s.rxs = .awaitDir → k ≤ 1) ∧ t.rxq = s.rxq.drop k ∧ t.txq = s.txq ∧
    code.toNat ≤ 5 ∧ t.replies = s.replies ++ [.result code] ∧ t.inputs = s.inputs ∧ t.fresh = s.fresh

/-- R72: one `RXBALL` writes all five fields of a frame or none of them. -/
def Obligations.CommitIsAllOrNothing : Prop :=
  ∀ s t : State, exec .rxball s = .next t →
    (t.ball.x = s.ball.x ∧ t.ball.y = s.ball.y ∧ t.ball.dx = s.ball.dx ∧ t.ball.dy = s.ball.dy ∧
      t.ball.onscr = s.ball.onscr) ∨
    (t.ball.x = ⟨t.rxc, true⟩ ∧ t.ball.y = ⟨BitVec.ofNat 4 (Config.height - 1), true⟩ ∧
      (∃ d : BitVec 2, d ≠ 0b10#2 ∧ t.ball.dx = ⟨d, true⟩) ∧ t.ball.dy = ⟨0b11, true⟩ ∧ t.ball.onscr = ⟨1, true⟩ ∧
      t.ball.dead = s.ball.dead ∧ t.rxs = .awaitCoord ∧ t.replies = s.replies ++ [.result 2])

/-- R234 (4): a position frame that `TXPOS` sends from a ball at `x`, `dx`, over a link that changes at most one symbol of each byte
and drops, adds and reorders nothing, is received by one `RXBALL` in AWAIT_COORD with `RXQ` empty before: the receiver ends with
`X = 6 - x`, `DX = -dx`, `Y = HEIGHT - 1`, `DY = -1`, `ONSCR = 1`. -/
def Obligations.BallCrossesAOneSymbolLink : Prop :=
  ∀ a b : State, a.ball.x.written = true → a.ball.dx.written = true → a.ball.x.bits.toNat ≤ 6 → a.ball.dx.bits ≠ 0b10#2 →
    b.rxs = .awaitCoord → b.rxq = [] →
    ∃ ta : State, exec .txpos a = .next ta ∧ ∀ got : List Byte, linkOneSym (ta.txq.drop a.txq.length) got →
      exec .rxball { b with rxq := got } = .next { b with
        ball := {
          x := ⟨6#3 - a.ball.x.bits, true⟩
          y := ⟨BitVec.ofNat 4 (Config.height - 1), true⟩
          dx := ⟨-a.ball.dx.bits, true⟩
          dy := ⟨0b11, true⟩
          onscr := ⟨1, true⟩
          dead := b.ball.dead }
        rxc := 6#3 - a.ball.x.bits
        rxq := []
        replies := b.replies ++ [.result 2] }

/-- R303: with a stalled frame, a fresh frame `cm`, `dm` desynchronizes the receiver: its coordinate is taken as the direction
(committing the stale coordinate when `cm` is 1, 2 or 3, dropping the frame otherwise) and its direction as a coordinate. -/
def Obligations.StalledFrameEatsTheNextOne : Prop :=
  ∀ (s : State) (cm dm : Msg), s.rxs = .awaitDir → s.rxq = [encodeMsg cm, encodeMsg dm] →
    1 ≤ cm.toNat → cm.toNat ≤ 7 → 1 ≤ dm.toNat → dm.toNat ≤ 3 →
    ∃ t u : State, exec .rxball s = .next t ∧ exec .rxball t = .next u ∧
      u.rxs = .awaitDir ∧ u.rxc = BitVec.ofNat 3 (dm.toNat - 1) ∧ u.rxq = [] ∧ u.ball = t.ball ∧
      (cm.toNat ≤ 3 → t.ball.x = ⟨s.rxc, true⟩ ∧ t.ball.dx = ⟨BitVec.ofInt 2 (cm.toNat - 2), true⟩ ∧
        t.ball.onscr = ⟨1, true⟩) ∧
      (4 ≤ cm.toNat → t.ball = s.ball)

/-! ### Host access -/

/-- R251 on a written field, with the result of R98: `RDB f` is command `0xD00 + f` and gives the field's bits, zero-extended,
never sign-extended; nothing else changes. -/
def Obligations.RdbReadsAWrittenField : Prop :=
  (∀ f : BitVec 3, encode (.rdb f) = 0xD00#12 + f.setWidth 12) ∧
  ∀ s : State,
    (s.ball.x.written = true →
      exec (.rdb 0) s = .next { s with replies := s.replies ++ [.result (s.ball.x.bits.setWidth 8)] }) ∧
    (s.ball.y.written = true →
      exec (.rdb 1) s = .next { s with replies := s.replies ++ [.result (s.ball.y.bits.setWidth 8)] }) ∧
    (s.ball.dx.written = true →
      exec (.rdb 2) s = .next { s with replies := s.replies ++ [.result (s.ball.dx.bits.setWidth 8)] }) ∧
    (s.ball.dy.written = true →
      exec (.rdb 3) s = .next { s with replies := s.replies ++ [.result (s.ball.dy.bits.setWidth 8)] }) ∧
    (s.ball.onscr.written = true →
      exec (.rdb 4) s = .next { s with replies := s.replies ++ [.result (s.ball.onscr.bits.setWidth 8)] }) ∧
    (s.ball.dead.written = true →
      exec (.rdb 5) s = .next { s with replies := s.replies ++ [.result (s.ball.dead.bits.setWidth 8)] })

/-- THE MODEL'S CHOICE (log entry 4; R25 defines no result): `RDB` of a field that nothing has written gives some pattern of the
field's width, and only the counter of free values moves besides. -/
def Obligations.RdbRunsOnAnUnwrittenField : Prop :=
  ∀ s : State, ∃ v : Fin 6 → Byte,
    (v 0).toNat < 8 ∧ (v 1).toNat < 16 ∧ (v 2).toNat < 4 ∧ (v 3).toNat < 4 ∧ (v 4).toNat < 2 ∧ (v 5).toNat < 2 ∧
    (s.ball.x.written = false →
      exec (.rdb 0) s = .next { s with replies := s.replies ++ [.result (v 0)], fresh := s.fresh + 1 }) ∧
    (s.ball.y.written = false →
      exec (.rdb 1) s = .next { s with replies := s.replies ++ [.result (v 1)], fresh := s.fresh + 1 }) ∧
    (s.ball.dx.written = false →
      exec (.rdb 2) s = .next { s with replies := s.replies ++ [.result (v 2)], fresh := s.fresh + 1 }) ∧
    (s.ball.dy.written = false →
      exec (.rdb 3) s = .next { s with replies := s.replies ++ [.result (v 3)], fresh := s.fresh + 1 }) ∧
    (s.ball.onscr.written = false →
      exec (.rdb 4) s = .next { s with replies := s.replies ++ [.result (v 4)], fresh := s.fresh + 1 }) ∧
    (s.ball.dead.written = false →
      exec (.rdb 5) s = .next { s with replies := s.replies ++ [.result (v 5)], fresh := s.fresh + 1 })

/-- R253: `WRB f, v` is command `0xE00 + 16f + v`; a legal value is written to the one field, which counts as written from then on,
and the result is 0; an illegal value and a field 6 or 7 are refused. -/
def Obligations.WrbWritesOneField : Prop :=
  (∀ (f : BitVec 3) (v : BitVec 4), encode (.wrb f v) = 0xE00#12 + 16#12 * f.setWidth 12 + v.setWidth 12) ∧
  ∀ (s : State) (v : BitVec 4),
    exec (.wrb 0 v) s = (if v.toNat ≤ 6 then
      .next { s with ball := { s.ball with x := ⟨v.setWidth 3, true⟩ }, replies := s.replies ++ [.result 0] }
      else .refused (.illegalFieldValue 0 v)) ∧
    exec (.wrb 1 v) s = (if v.toNat < Config.height then
      .next { s with ball := { s.ball with y := ⟨v, true⟩ }, replies := s.replies ++ [.result 0] }
      else .refused (.illegalFieldValue 1 v)) ∧
    exec (.wrb 2 v) s = (if v ∈ [0b0000#4, 0b0001#4, 0b0011#4] then
      .next { s with ball := { s.ball with dx := ⟨v.setWidth 2, true⟩ }, replies := s.replies ++ [.result 0] }
      else .refused (.illegalFieldValue 2 v)) ∧
    exec (.wrb 3 v) s = (if v ∈ [0b0001#4, 0b0011#4] then
      .next { s with ball := { s.ball with dy := ⟨v.setWidth 2, true⟩ }, replies := s.replies ++ [.result 0] }
      else .refused (.illegalFieldValue 3 v)) ∧
    exec (.wrb 4 v) s = (if v ∈ [0#4, 1#4] then
      .next { s with ball := { s.ball with onscr := ⟨v.setWidth 1, true⟩ }, replies := s.replies ++ [.result 0] }
      else .refused (.illegalFieldValue 4 v)) ∧
    exec (.wrb 5 v) s = (if v ∈ [0#4, 1#4] then
      .next { s with ball := { s.ball with dead := ⟨v.setWidth 1, true⟩ }, replies := s.replies ++ [.result 0] }
      else .refused (.illegalFieldValue 5 v)) ∧
    exec (.wrb 6 v) s = .refused (.noSuchField 6) ∧ exec (.wrb 7 v) s = .refused (.noSuchField 7)

/-- A field that `WRB` has just written is read by `RDB` as the pattern written, zero-extended (R251, R253, R25). -/
def Obligations.WrittenFieldReadsBack : Prop :=
  ∀ (s t : State) (f : BitVec 3) (v : BitVec 4), exec (.wrb f v) s = .next t →
    exec (.rdb f) t = .next { t with replies := t.replies ++ [.result (v.setWidth 8)] }

/-! ### The whole machine -/

/-- R103: an operation is refused exactly when its operand values lie outside its domain (`RDB`, `WRB` with field 6 or 7, `WRB` with
an illegal value, `INFORM` with another value than 1 and 2). Every other operation completes, in every state; that this includes
the states in which it reads a field nothing has written is THE MODEL'S CHOICE (log entry 4). -/
def Obligations.RefusedExactlyOutsideTheDomain : Prop :=
  ∀ (i : Instr) (s : State),
    ((∃ t, exec i s = .next t) ↔ wellFormed i = true) ∧ ((∃ r, exec i s = .refused r) ↔ wellFormed i = false)

/-- The record stays legal, and the latched coordinate of a frame in progress stays one, whatever host and link do (R22, R37; that a
reset keeps it rests on log entry 3's reset values). -/
def Obligations.StepKeepsTheRecordLegal : Prop :=
  ∀ s t : State, s.inv → step s = .next t → t.inv

/-- THE MODEL'S CHOICE of reset values (log entry 3) is a legal record, so the invariant holds at reset. -/
def Obligations.ResetRecordIsLegal : Prop := State.reset.inv

/-- R290: after power-on and after the reset input `rxs` is AWAIT_COORD and no field has been written; the reset input leaves `RXQ`
and `TXQ` as they are. That it acts as a step of its own, between operations, and leaves what the host has been given alone is THE
MODEL'S CHOICE (log entries 1 and 12). -/
def Obligations.ResetForgetsTheRecord : Prop :=
  State.reset.rxs = .awaitCoord ∧ (∀ f : Field, State.reset.ball.isWritten f = false) ∧
  ∀ (s : State) (rest : List Input), s.inputs = .reset :: rest → ∃ t : State, step s = .next t ∧
    t.rxs = .awaitCoord ∧ (∀ f : Field, t.ball.isWritten f = false) ∧ t.rxq = s.rxq ∧ t.txq = s.txq ∧ t.inputs = rest ∧
    t.replies = s.replies

/-- R59, R60, R63: the host's own `has_byte_ready()` answers whether `RXQ` is not empty and changes nothing; its `receive_byte()`
takes the oldest byte of the same `RXQ`, and on an empty one it is refused (U8). -/
def Obligations.HostCallsTheTransport : Prop :=
  (∀ (s : State) (rest : List Input), s.inputs = .hostPoll :: rest →
    step s = .next { s with inputs := rest, replies := s.replies ++ [.ready (decide (s.rxq ≠ []))] }) ∧
  (∀ (s : State) (rest : List Input) (b : Byte) (q : List Byte), s.inputs = .hostTake :: rest → s.rxq = b :: q →
    step s = .next { s with inputs := rest, rxq := q, replies := s.replies ++ [.byte b] }) ∧
  (∀ (s : State) (rest : List Input), s.inputs = .hostTake :: rest → s.rxq = [] → step s = .refused .hostTakeOnEmpty)

/-- R70: the one thing the link does to a device is to append a byte to its `RXQ`. -/
def Obligations.LinkOnlyAppends : Prop :=
  ∀ (s : State) (rest : List Input) (b : Byte), s.inputs = .deliver b :: rest →
    step s = .next { s with inputs := rest, rxq := s.rxq ++ [b] }

/-- Nothing takes back a byte handed to the transport, nor anything the host has been given (R58, R70, R11; that the latter
stands in `replies`, and that a reset leaves it alone, is the model's own record, log entries 2 and 12). -/
def Obligations.OutputsOnlyGrow : Prop :=
  ∀ s t : State, step s = .next t → s.txq <+: t.txq ∧ s.replies <+: t.replies

/-- No operation but `RXBALL` writes `rxs` or `rxc` (R36, R37, R38) or reaches `RXQ` (R57). This is about the block's operations:
the host's own `receive_byte()` takes from the same queue (R63). -/
def Obligations.OnlyRxballMovesTheReceiver : Prop :=
  ∀ (i : Instr) (s t : State), i ≠ .rxball → exec i s = .next t → t.rxs = s.rxs ∧ t.rxc = s.rxc ∧ t.rxq = s.rxq

/-- R23: only `WRB` and `RXBALL` write the record; the codec operations and the host's accesses send nothing. -/
def Obligations.OnlyWrbAndRxballWriteTheRecord : Prop :=
  ∀ (i : Instr) (s t : State), exec i s = .next t →
    (i ≠ .rxball → (∀ f v, i ≠ .wrb f v) → t.ball = s.ball) ∧
    (i ≠ .txpos → i ≠ .txdeath → i ≠ .txball → (∀ m, i ≠ .inform m) → t.txq = s.txq)

/-- R30: no operation but the host's write of the flag itself clears `ONSCR` or `DEAD`. -/
def Obligations.OnlyTheHostClearsAFlag : Prop :=
  ∀ (i : Instr) (s t : State), exec i s = .next t →
    (s.ball.onscr = ⟨1, true⟩ → t.ball.onscr = ⟨1, true⟩ ∨ ∃ v, i = .wrb 4 v) ∧
    (s.ball.dead = ⟨1, true⟩ → t.ball.dead = ⟨1, true⟩ ∨ ∃ v, i = .wrb 5 v)

/-- Where every field an operation reads has been written (R23, R293), no free value (log entry 4) is used and none has any
influence. -/
def Obligations.DefinedReadsUseNoFreeValue : Prop :=
  ∀ (i : Instr) (s t : State) (n : Nat), readsDefined i s = true → exec i s = .next t →
    t.fresh = s.fresh ∧ exec i { s with fresh := n } = .next { t with fresh := n }

/-! ### Two devices -/

/-- Under every link, `LINK_ANY` included, both devices' records stay legal along every run of the two-device system (R22, R62,
R281; the system is log entry 13's form, and that a reset keeps a record legal rests on log entry 3's reset values). -/
def Obligations.BothRecordsStayLegalUnderAnyLink : Prop :=
  ∀ (link : Link) (y z : System), SystemRun link y z → y.a.inv → y.b.inv → z.a.inv ∧ z.b.inv

/-- Under `LINK_PERFECT` what has been delivered to a device is at every moment the first part of what its peer has sent: nothing is
delivered before it is sent (R62, R74; the system is log entry 13's form). -/
def Obligations.PerfectLinkDeliversWhatWasSent : Prop :=
  ∀ y z : System, SystemRun linkPerfect y z → y.toB <+: y.a.txq → y.toA <+: y.b.txq →
    z.toB <+: z.a.txq ∧ z.toA <+: z.b.txq
end

