-- ==== Sys2Proof/Laws/Codec.lean ====
section
/-! SUPPORT. The codec's functions as bit operations, and how they go through the exclusive or (40_field_arithmetic.md R121,
42_decoder.md R168). -/

namespace Sys2Proof.Machine

/-- Field addition is exclusive or (R121). -/
theorem gfadd_eq_xor : ∀ a b : Sym, gfadd a b = a ^^^ b := by decide

/-- Field multiplication distributes over exclusive or, in its first operand. -/
theorem gfmul_xor_left : ∀ a b c : Sym, gfmul (a ^^^ b) c = gfmul a c ^^^ gfmul b c := by decide

/-- The symbols of an exclusive or (R168). -/
theorem sym_xor (a b : Byte) (i : Nat) : sym (a ^^^ b) i = sym a i ^^^ sym b i := by
  simp only [sym, BitVec.extractLsb'_xor]

/-- A pair of symbols and exclusive or. -/
theorem pairSyms_xor : ∀ a b c d : Sym, pairSyms (a ^^^ b) (c ^^^ d) = pairSyms a c ^^^ pairSyms b d := by decide

/-- Message extraction goes through exclusive or. -/
theorem extractMsg_xor (a b : Byte) : extractMsg (a ^^^ b) = extractMsg a ^^^ extractMsg b := by
  simp only [extractMsg, sym_xor, gfadd_eq_xor]
  rw [← pairSyms_xor]
  congr 1
  ac_rfl

/-- The coordinate message in closed form (R191). -/
theorem coordMsg_eq : ∀ x : BitVec 3, coordMsg x = BitVec.ofInt 4 (7 - x.toNat) := by decide

/-- The direction message in closed form (R191). -/
theorem dirMsg_eq : ∀ dx : BitVec 2, dirMsg dx = BitVec.ofInt 4 (2 - dx.toInt) := by decide

end Sys2Proof.Machine
end

