-- ==== Sys2Proof/Laws/State.lean ====
section
/-! SUPPORT. What each update of the state leaves in each field, so that no later proof unfolds a record update. -/

namespace Sys2Proof.Machine

@[simp] theorem reply_ball (r : Byte) (s : State) : (reply r s).ball = s.ball := rfl
@[simp] theorem reply_rxs (r : Byte) (s : State) : (reply r s).rxs = s.rxs := rfl
@[simp] theorem reply_rxc (r : Byte) (s : State) : (reply r s).rxc = s.rxc := rfl
@[simp] theorem reply_rxq (r : Byte) (s : State) : (reply r s).rxq = s.rxq := rfl
@[simp] theorem reply_txq (r : Byte) (s : State) : (reply r s).txq = s.txq := rfl
@[simp] theorem reply_inputs (r : Byte) (s : State) : (reply r s).inputs = s.inputs := rfl
@[simp] theorem reply_replies (r : Byte) (s : State) : (reply r s).replies = s.replies ++ [.result r] := rfl
@[simp] theorem reply_fresh (r : Byte) (s : State) : (reply r s).fresh = s.fresh := rfl

@[simp] theorem send_ball (b : Byte) (s : State) : (send b s).ball = s.ball := rfl
@[simp] theorem send_rxs (b : Byte) (s : State) : (send b s).rxs = s.rxs := rfl
@[simp] theorem send_rxc (b : Byte) (s : State) : (send b s).rxc = s.rxc := rfl
@[simp] theorem send_rxq (b : Byte) (s : State) : (send b s).rxq = s.rxq := rfl
@[simp] theorem send_txq (b : Byte) (s : State) : (send b s).txq = s.txq ++ [b] := rfl
@[simp] theorem send_inputs (b : Byte) (s : State) : (send b s).inputs = s.inputs := rfl
@[simp] theorem send_replies (b : Byte) (s : State) : (send b s).replies = s.replies := rfl
@[simp] theorem send_fresh (b : Byte) (s : State) : (send b s).fresh = s.fresh := rfl

@[simp] theorem linkDeliver_ball (b : Byte) (s : State) : (linkDeliver b s).ball = s.ball := rfl
@[simp] theorem linkDeliver_rxs (b : Byte) (s : State) : (linkDeliver b s).rxs = s.rxs := rfl
@[simp] theorem linkDeliver_rxc (b : Byte) (s : State) : (linkDeliver b s).rxc = s.rxc := rfl
@[simp] theorem linkDeliver_rxq (b : Byte) (s : State) : (linkDeliver b s).rxq = s.rxq ++ [b] := rfl
@[simp] theorem linkDeliver_txq (b : Byte) (s : State) : (linkDeliver b s).txq = s.txq := rfl
@[simp] theorem linkDeliver_inputs (b : Byte) (s : State) : (linkDeliver b s).inputs = s.inputs := rfl
@[simp] theorem linkDeliver_replies (b : Byte) (s : State) : (linkDeliver b s).replies = s.replies := rfl
@[simp] theorem linkDeliver_fresh (b : Byte) (s : State) : (linkDeliver b s).fresh = s.fresh := rfl

@[simp] theorem resetBlock_ball (s : State) : (resetBlock s).ball = Ball.reset := rfl
@[simp] theorem resetBlock_rxs (s : State) : (resetBlock s).rxs = RxState.awaitCoord := rfl
@[simp] theorem resetBlock_rxc (s : State) : (resetBlock s).rxc = 0 := rfl
@[simp] theorem resetBlock_rxq (s : State) : (resetBlock s).rxq = s.rxq := rfl
@[simp] theorem resetBlock_txq (s : State) : (resetBlock s).txq = s.txq := rfl
@[simp] theorem resetBlock_inputs (s : State) : (resetBlock s).inputs = s.inputs := rfl
@[simp] theorem resetBlock_replies (s : State) : (resetBlock s).replies = s.replies := rfl
@[simp] theorem resetBlock_fresh (s : State) : (resetBlock s).fresh = s.fresh := rfl

@[simp] theorem presentWord_ball (nbits w : Nat) (s : State) : (presentWord nbits w s).ball = s.ball := rfl
@[simp] theorem presentWord_rxs (nbits w : Nat) (s : State) : (presentWord nbits w s).rxs = s.rxs := rfl
@[simp] theorem presentWord_rxc (nbits w : Nat) (s : State) : (presentWord nbits w s).rxc = s.rxc := rfl
@[simp] theorem presentWord_rxq (nbits w : Nat) (s : State) : (presentWord nbits w s).rxq = s.rxq := rfl
@[simp] theorem presentWord_txq (nbits w : Nat) (s : State) : (presentWord nbits w s).txq = s.txq := rfl
@[simp] theorem presentWord_inputs (nbits w : Nat) (s : State) : (presentWord nbits w s).inputs = .command (portWord nbits w) :: s.inputs := rfl
@[simp] theorem presentWord_replies (nbits w : Nat) (s : State) : (presentWord nbits w s).replies = s.replies := rfl
@[simp] theorem presentWord_fresh (nbits w : Nat) (s : State) : (presentWord nbits w s).fresh = s.fresh := rfl

@[simp] theorem withFetchWord_ball (s : State) (nbits w : Nat) : (s.withFetchWord nbits w).ball = s.ball := rfl
@[simp] theorem withFetchWord_rxs (s : State) (nbits w : Nat) : (s.withFetchWord nbits w).rxs = s.rxs := rfl
@[simp] theorem withFetchWord_rxc (s : State) (nbits w : Nat) : (s.withFetchWord nbits w).rxc = s.rxc := rfl
@[simp] theorem withFetchWord_rxq (s : State) (nbits w : Nat) : (s.withFetchWord nbits w).rxq = s.rxq := rfl
@[simp] theorem withFetchWord_txq (s : State) (nbits w : Nat) : (s.withFetchWord nbits w).txq = s.txq := rfl
@[simp] theorem withFetchWord_inputs (s : State) (nbits w : Nat) : (s.withFetchWord nbits w).inputs = .command (portWord nbits w) :: s.inputs := rfl
@[simp] theorem withFetchWord_replies (s : State) (nbits w : Nat) : (s.withFetchWord nbits w).replies = s.replies := rfl
@[simp] theorem withFetchWord_fresh (s : State) (nbits w : Nat) : (s.withFetchWord nbits w).fresh = s.fresh := rfl

@[simp] theorem reset_ball : State.reset.ball = Ball.reset := rfl
@[simp] theorem reset_rxs : State.reset.rxs = .awaitCoord := rfl
@[simp] theorem reset_rxc : State.reset.rxc = 0 := rfl
@[simp] theorem reset_rxq : State.reset.rxq = Config.rxqAtReset := rfl
@[simp] theorem reset_txq : State.reset.txq = [] := rfl
@[simp] theorem reset_inputs : State.reset.inputs = [] := rfl
@[simp] theorem reset_replies : State.reset.replies = [] := rfl
@[simp] theorem reset_fresh : State.reset.fresh = 0 := rfl

@[simp] theorem setOnscr_x (b : Ball) : (setOnscr b).x = b.x := rfl
@[simp] theorem setOnscr_y (b : Ball) : (setOnscr b).y = b.y := rfl
@[simp] theorem setOnscr_dx (b : Ball) : (setOnscr b).dx = b.dx := rfl
@[simp] theorem setOnscr_dy (b : Ball) : (setOnscr b).dy = b.dy := rfl
@[simp] theorem setOnscr_onscr (b : Ball) : (setOnscr b).onscr = ⟨1, true⟩ := rfl
@[simp] theorem setOnscr_dead (b : Ball) : (setOnscr b).dead = b.dead := rfl

@[simp] theorem setDead_x (b : Ball) : (setDead b).x = b.x := rfl
@[simp] theorem setDead_y (b : Ball) : (setDead b).y = b.y := rfl
@[simp] theorem setDead_dx (b : Ball) : (setDead b).dx = b.dx := rfl
@[simp] theorem setDead_dy (b : Ball) : (setDead b).dy = b.dy := rfl
@[simp] theorem setDead_onscr (b : Ball) : (setDead b).onscr = b.onscr := rfl
@[simp] theorem setDead_dead (b : Ball) : (setDead b).dead = ⟨1, true⟩ := rfl

@[simp] theorem commitBall_x (c : BitVec 3) (d : Int) (b : Ball) : (commitBall c d b).x = ⟨c, true⟩ := rfl
@[simp] theorem commitBall_y (c : BitVec 3) (d : Int) (b : Ball) : (commitBall c d b).y = ⟨BitVec.ofNat 4 (Config.height - 1), true⟩ := rfl
@[simp] theorem commitBall_dx (c : BitVec 3) (d : Int) (b : Ball) : (commitBall c d b).dx = ⟨BitVec.ofInt 2 d, true⟩ := rfl
@[simp] theorem commitBall_dy (c : BitVec 3) (d : Int) (b : Ball) : (commitBall c d b).dy = ⟨BitVec.ofInt 2 dirDown, true⟩ := rfl
@[simp] theorem commitBall_onscr (c : BitVec 3) (d : Int) (b : Ball) : (commitBall c d b).onscr = ⟨1, true⟩ := rfl
@[simp] theorem commitBall_dead (c : BitVec 3) (d : Int) (b : Ball) : (commitBall c d b).dead = b.dead := rfl

@[simp] theorem writeField_x_x (v : BitVec 4) (b : Ball) : (writeField .x v b).x = ⟨v.setWidth 3, true⟩ := rfl
@[simp] theorem writeField_x_y (v : BitVec 4) (b : Ball) : (writeField .x v b).y = b.y := rfl
@[simp] theorem writeField_x_dx (v : BitVec 4) (b : Ball) : (writeField .x v b).dx = b.dx := rfl
@[simp] theorem writeField_x_dy (v : BitVec 4) (b : Ball) : (writeField .x v b).dy = b.dy := rfl
@[simp] theorem writeField_x_onscr (v : BitVec 4) (b : Ball) : (writeField .x v b).onscr = b.onscr := rfl
@[simp] theorem writeField_x_dead (v : BitVec 4) (b : Ball) : (writeField .x v b).dead = b.dead := rfl
@[simp] theorem writeField_y_x (v : BitVec 4) (b : Ball) : (writeField .y v b).x = b.x := rfl
@[simp] theorem writeField_y_y (v : BitVec 4) (b : Ball) : (writeField .y v b).y = ⟨v, true⟩ := rfl
@[simp] theorem writeField_y_dx (v : BitVec 4) (b : Ball) : (writeField .y v b).dx = b.dx := rfl
@[simp] theorem writeField_y_dy (v : BitVec 4) (b : Ball) : (writeField .y v b).dy = b.dy := rfl
@[simp] theorem writeField_y_onscr (v : BitVec 4) (b : Ball) : (writeField .y v b).onscr = b.onscr := rfl
@[simp] theorem writeField_y_dead (v : BitVec 4) (b : Ball) : (writeField .y v b).dead = b.dead := rfl
@[simp] theorem writeField_dx_x (v : BitVec 4) (b : Ball) : (writeField .dx v b).x = b.x := rfl
@[simp] theorem writeField_dx_y (v : BitVec 4) (b : Ball) : (writeField .dx v b).y = b.y := rfl
@[simp] theorem writeField_dx_dx (v : BitVec 4) (b : Ball) : (writeField .dx v b).dx = ⟨v.setWidth 2, true⟩ := rfl
@[simp] theorem writeField_dx_dy (v : BitVec 4) (b : Ball) : (writeField .dx v b).dy = b.dy := rfl
@[simp] theorem writeField_dx_onscr (v : BitVec 4) (b : Ball) : (writeField .dx v b).onscr = b.onscr := rfl
@[simp] theorem writeField_dx_dead (v : BitVec 4) (b : Ball) : (writeField .dx v b).dead = b.dead := rfl
@[simp] theorem writeField_dy_x (v : BitVec 4) (b : Ball) : (writeField .dy v b).x = b.x := rfl
@[simp] theorem writeField_dy_y (v : BitVec 4) (b : Ball) : (writeField .dy v b).y = b.y := rfl
@[simp] theorem writeField_dy_dx (v : BitVec 4) (b : Ball) : (writeField .dy v b).dx = b.dx := rfl
@[simp] theorem writeField_dy_dy (v : BitVec 4) (b : Ball) : (writeField .dy v b).dy = ⟨v.setWidth 2, true⟩ := rfl
@[simp] theorem writeField_dy_onscr (v : BitVec 4) (b : Ball) : (writeField .dy v b).onscr = b.onscr := rfl
@[simp] theorem writeField_dy_dead (v : BitVec 4) (b : Ball) : (writeField .dy v b).dead = b.dead := rfl
@[simp] theorem writeField_onscr_x (v : BitVec 4) (b : Ball) : (writeField .onscr v b).x = b.x := rfl
@[simp] theorem writeField_onscr_y (v : BitVec 4) (b : Ball) : (writeField .onscr v b).y = b.y := rfl
@[simp] theorem writeField_onscr_dx (v : BitVec 4) (b : Ball) : (writeField .onscr v b).dx = b.dx := rfl
@[simp] theorem writeField_onscr_dy (v : BitVec 4) (b : Ball) : (writeField .onscr v b).dy = b.dy := rfl
@[simp] theorem writeField_onscr_onscr (v : BitVec 4) (b : Ball) : (writeField .onscr v b).onscr = ⟨v.setWidth 1, true⟩ := rfl
@[simp] theorem writeField_onscr_dead (v : BitVec 4) (b : Ball) : (writeField .onscr v b).dead = b.dead := rfl
@[simp] theorem writeField_dead_x (v : BitVec 4) (b : Ball) : (writeField .dead v b).x = b.x := rfl
@[simp] theorem writeField_dead_y (v : BitVec 4) (b : Ball) : (writeField .dead v b).y = b.y := rfl
@[simp] theorem writeField_dead_dx (v : BitVec 4) (b : Ball) : (writeField .dead v b).dx = b.dx := rfl
@[simp] theorem writeField_dead_dy (v : BitVec 4) (b : Ball) : (writeField .dead v b).dy = b.dy := rfl
@[simp] theorem writeField_dead_onscr (v : BitVec 4) (b : Ball) : (writeField .dead v b).onscr = b.onscr := rfl
@[simp] theorem writeField_dead_dead (v : BitVec 4) (b : Ball) : (writeField .dead v b).dead = ⟨v.setWidth 1, true⟩ := rfl

end Sys2Proof.Machine
end

