-- ==== Sys2Proof/Laws/Ops.lean ====
section
/-! SUPPORT. For each shared operation, once, everything it can do; later proofs cite these instead of unfolding it. -/

namespace Sys2Proof.Machine

/-- `HEIGHT` lies in 1..16 (R13). -/
theorem height_pos : 1 ≤ Config.height := by unfold Config.height; omega

theorem height_le : Config.height ≤ 16 := by have := Config.topRow.isLt; unfold Config.height; omega

/-! ### The transport -/

/-- `receive_byte()` on an empty queue. -/
theorem receiveByte_empty {s : State} (h : s.rxq = []) : receiveByte s = none := by simp [receiveByte, h]

/-- `receive_byte()` on a queue that is not empty takes the oldest byte and changes nothing else (R60). -/
theorem receiveByte_cons {s : State} {b : Byte} {q : List Byte} (h : s.rxq = b :: q) :
    receiveByte s = some (b, { s with rxq := q }) := by simp [receiveByte, h]

/-- Everything `receive_byte()` can answer. -/
theorem receiveByte_cases (s : State) :
    (s.rxq = [] ∧ receiveByte s = none) ∨
    (∃ b q, s.rxq = b :: q ∧ receiveByte s = some (b, { s with rxq := q })) := by
  rcases h : s.rxq with _ | ⟨b, q⟩
  · exact .inl ⟨rfl, receiveByte_empty h⟩
  · exact .inr ⟨b, q, rfl, receiveByte_cons h⟩

/-! ### Reading the record -/

/-- A written register is read as it stands, and reading changes nothing (R251). -/
@[simp] theorem readReg_written {w : Nat} {r : Reg w} {s : State} (h : r.written = true) : readReg r s = (r.bits, s) := by
  simp [readReg, h]

/-- A register nothing has written gives a free value; only the counter of free values moves (R25, log entry 4). -/
@[simp] theorem readReg_unwritten {w : Nat} {r : Reg w} {s : State} (h : r.written = false) :
    readReg r s = ((Config.freeBits s.fresh).setWidth w, { s with fresh := s.fresh + 1 }) := by
  simp [readReg, h]

/-- Whatever is read, only the counter of free values can move. -/
theorem readReg_state {w : Nat} (r : Reg w) (s : State) : ∃ n, (readReg r s).2 = { s with fresh := n } := by
  unfold readReg; split
  · exact ⟨s.fresh, rfl⟩
  · exact ⟨s.fresh + 1, rfl⟩

/-- Whatever field is read, only the counter of free values can move. -/
theorem readField_state (f : Field) (s : State) : ∃ n, (readField f s).2 = { s with fresh := n } := by
  cases f
  · exact readReg_state s.ball.x s
  · exact readReg_state s.ball.y s
  · exact readReg_state s.ball.dx s
  · exact readReg_state s.ball.dy s
  · exact readReg_state s.ball.onscr s
  · exact readReg_state s.ball.dead s

/-- A written field is read without any change of the state. -/
theorem readField_written {f : Field} {s : State} (h : s.ball.isWritten f = true) : (readField f s).2 = s := by
  cases f <;> simp_all [readField, Ball.isWritten]

/-! ### The serializer -/

/-- A position frame whose fields have been written. -/
theorem transmitPosition_written {s : State} (hx : s.ball.x.written = true) (hd : s.ball.dx.written = true) :
    transmitPosition s = sendPosition s.ball.x.bits s.ball.dx.bits s := by
  simp [transmitPosition, hx, hd]

/-- Whatever is read, `TXPOS` sends one position frame and moves nothing but the counter of free values. -/
theorem transmitPosition_sends (s : State) :
    ∃ x dx n, transmitPosition s = sendPosition x dx { s with fresh := n } := by
  obtain ⟨n, hn⟩ := readReg_state s.ball.x s
  obtain ⟨k, hk⟩ := readReg_state (readReg s.ball.x s).2.ball.dx (readReg s.ball.x s).2
  refine ⟨(readReg s.ball.x s).1, (readReg (readReg s.ball.x s).2.ball.dx (readReg s.ball.x s).2).1, k, ?_⟩
  simp only [transmitPosition]
  rw [hk, hn]

/-! ### The deserializer -/

/-- The wall range test on the message (R223 (a)). -/
theorem coordOf_in_wall (m : Msg) :
    (wallMin ≤ coordOf m ∧ coordOf m ≤ wallMax) ↔ (1 ≤ m.toNat ∧ m.toNat ≤ 7) := by
  simp only [coordOf, wallMin, wallMax, coordOffset]; omega

/-- The sentinel test on the message (R223 (b)). -/
theorem coordOf_sentinel (m : Msg) : coordOf m = deathSentinel ↔ m.toNat = 15 := by
  simp only [coordOf, deathSentinel, coordOffset]; omega

/-- The direction test on the message (R227). -/
theorem dirOf_in_range (m : Msg) : (-1 ≤ dirOf m ∧ dirOf m ≤ 1) ↔ (1 ≤ m.toNat ∧ m.toNat ≤ 3) := by
  simp only [dirOf, dirOffset]; omega

/-- The coordinate that is latched, as 3 bits. -/
theorem coordOf_bits {m : Msg} (h : 1 ≤ m.toNat) : BitVec.ofInt 3 (coordOf m) = BitVec.ofNat 3 (m.toNat - 1) := by
  have e : coordOf m = ((m.toNat - 1 : Nat) : Int) := by simp only [coordOf, coordOffset]; omega
  rw [e, BitVec.ofInt_natCast]

/-- Everything a message taken in AWAIT_COORD can do (R223 to R225, R229). -/
theorem takeCoord_cases (m : Msg) (s : State) :
    (1 ≤ m.toNat ∧ m.toNat ≤ 7 ∧
      takeCoord m s = (.pending, { s with rxc := BitVec.ofNat 3 (m.toNat - 1), rxs := .awaitDir })) ∨
    (m.toNat = 15 ∧ takeCoord m s = (.death, { s with ball := setDead s.ball })) ∨
    ((m.toNat = 0 ∨ (8 ≤ m.toNat ∧ m.toNat ≤ 14)) ∧ takeCoord m s = (.dropCoord, s)) := by
  have hm := m.isLt
  by_cases h1 : 1 ≤ m.toNat ∧ m.toNat ≤ 7
  · refine .inl ⟨h1.1, h1.2, ?_⟩
    simp only [takeCoord, if_pos ((coordOf_in_wall m).2 h1), coordOf_bits h1.1]
  · have n1 := mt (coordOf_in_wall m).1 h1
    by_cases h2 : m.toNat = 15
    · exact .inr (.inl ⟨h2, by simp only [takeCoord, if_neg n1, if_pos ((coordOf_sentinel m).2 h2)]⟩)
    · have n2 := mt (coordOf_sentinel m).1 h2
      exact .inr (.inr ⟨by omega, by simp only [takeCoord, if_neg n1, if_neg n2]⟩)

/-- Everything a message taken in AWAIT_DIR can do (R226, R227). -/
theorem takeDir_cases (m : Msg) (s : State) :
    (1 ≤ m.toNat ∧ m.toNat ≤ 3 ∧
      takeDir m s = (.commit, { s with rxs := .awaitCoord, ball := commitBall s.rxc (dirOf m) s.ball })) ∨
    ((m.toNat = 0 ∨ 4 ≤ m.toNat) ∧ takeDir m s = (.dropDir, { s with rxs := .awaitCoord })) := by
  by_cases h : 1 ≤ m.toNat ∧ m.toNat ≤ 3
  · exact .inl ⟨h.1, h.2, by simp only [takeDir, if_pos ((dirOf_in_range m).2 h)]⟩
  · exact .inr ⟨by omega, by simp only [takeDir, if_neg (mt (dirOf_in_range m).1 h)]⟩

/-- Nothing waiting: no receive step happens (R221). -/
theorem rxStep_empty {s : State} (h : s.rxq = []) : rxStep s = (.none, s) := by
  simp [rxStep, receiveByte_empty h]

/-- A byte taken in AWAIT_COORD. -/
theorem rxStep_coord {s : State} {b : Byte} {q : List Byte} (h : s.rxq = b :: q) (hs : s.rxs = .awaitCoord) :
    rxStep s = takeCoord (decodeByte b) { s with rxq := q } := by
  simp [rxStep, receiveByte_cons h, hs]

/-- A byte taken in AWAIT_DIR. -/
theorem rxStep_dir {s : State} {b : Byte} {q : List Byte} (h : s.rxq = b :: q) (hs : s.rxs = .awaitDir) :
    rxStep s = takeDir (decodeByte b) { s with rxq := q } := by
  simp [rxStep, receiveByte_cons h, hs]

/-- Everything one receive step can do: the rows of R230. -/
theorem rxStep_cases (s : State) :
    (s.rxq = [] ∧ rxStep s = (.none, s)) ∨
    ∃ b q, s.rxq = b :: q ∧
      ((s.rxs = .awaitCoord ∧ 1 ≤ (decodeByte b).toNat ∧ (decodeByte b).toNat ≤ 7 ∧
          rxStep s = (.pending,
            { s with rxq := q, rxc := BitVec.ofNat 3 ((decodeByte b).toNat - 1), rxs := .awaitDir })) ∨
        (s.rxs = .awaitCoord ∧ (decodeByte b).toNat = 15 ∧
          rxStep s = (.death, { s with rxq := q, ball := setDead s.ball })) ∨
        (s.rxs = .awaitCoord ∧ ((decodeByte b).toNat = 0 ∨ (8 ≤ (decodeByte b).toNat ∧ (decodeByte b).toNat ≤ 14)) ∧
          rxStep s = (.dropCoord, { s with rxq := q })) ∨
        (s.rxs = .awaitDir ∧ 1 ≤ (decodeByte b).toNat ∧ (decodeByte b).toNat ≤ 3 ∧
          rxStep s = (.commit,
            { s with rxq := q, rxs := .awaitCoord, ball := commitBall s.rxc (dirOf (decodeByte b)) s.ball })) ∨
        (s.rxs = .awaitDir ∧ ((decodeByte b).toNat = 0 ∨ 4 ≤ (decodeByte b).toNat) ∧
          rxStep s = (.dropDir, { s with rxq := q, rxs := .awaitCoord }))) := by
  rcases hq : s.rxq with _ | ⟨b, q⟩
  · exact .inl ⟨rfl, rxStep_empty hq⟩
  · refine .inr ⟨b, q, rfl, ?_⟩
    rcases (show s.rxs = .awaitCoord ∨ s.rxs = .awaitDir by cases s.rxs <;> simp) with hs | hs
    · rw [rxStep_coord hq hs]
      rcases takeCoord_cases (decodeByte b) { s with rxq := q } with ⟨h1, h2, h⟩ | ⟨h1, h⟩ | ⟨h1, h⟩
      · exact .inl ⟨hs, h1, h2, h⟩
      · exact .inr (.inl ⟨hs, h1, h⟩)
      · exact .inr (.inr (.inl ⟨hs, h1, h⟩))
    · rw [rxStep_dir hq hs]
      rcases takeDir_cases (decodeByte b) { s with rxq := q } with ⟨h1, h2, h⟩ | ⟨h1, h⟩
      · exact .inr (.inr (.inr (.inl ⟨hs, h1, h2, h⟩)))
      · exact .inr (.inr (.inr (.inr ⟨hs, h1, h⟩)))

/-- A second receive step happens exactly after PENDING (R233). -/
theorem rxSteps_pending {s t : State} (h : rxStep s = (.pending, t)) :
    rxSteps s = (secondEvent (rxStep t).1, (rxStep t).2) := by
  simp [rxSteps, h]

/-- After any other event there is no second receive step (R233). -/
theorem rxSteps_single {s t : State} {e : Event} (h : rxStep s = (e, t)) (he : e ≠ .pending) : rxSteps s = (e, t) := by
  cases e <;> simp_all [rxSteps]

/-! ### The step -/

/-- Everything a step that answers a next state can have been. -/
theorem step_cases {s t : State} (h : step s = .next t) :
    (s.inputs = [] ∧ t = s) ∨
    (∃ w rest i, s.inputs = .command w :: rest ∧ decode w = .ok i ∧ exec i { s with inputs := rest } = .next t) ∨
    (∃ rest, s.inputs = .hostPoll :: rest ∧
      t = { s with inputs := rest, replies := s.replies ++ [.ready (hasByteReady s)] }) ∨
    (∃ rest b q, s.inputs = .hostTake :: rest ∧ s.rxq = b :: q ∧
      t = { s with inputs := rest, rxq := q, replies := s.replies ++ [.byte b] }) ∨
    (∃ rest b, s.inputs = .deliver b :: rest ∧ t = linkDeliver b { s with inputs := rest }) ∨
    (∃ rest, s.inputs = .reset :: rest ∧ t = resetBlock { s with inputs := rest }) := by
  rcases hi : s.inputs with _ | ⟨x, rest⟩
  · simp only [step, hi, Host.Outcome.next.injEq] at h
    exact .inl ⟨rfl, h.symm⟩
  · cases x with
    | command w =>
      cases hd : decode w with
      | error e => simp [step, hi, hd] at h
      | ok i =>
        simp only [step, hi, hd] at h
        exact .inr (.inl ⟨w, rest, i, rfl, hd, h⟩)
    | hostPoll =>
      simp only [step, hi, hostPoll, Host.Outcome.next.injEq] at h
      exact .inr (.inr (.inl ⟨rest, rfl, h.symm⟩))
    | hostTake =>
      rcases hq : s.rxq with _ | ⟨b, q⟩
      · simp [step, hi, hostTake, receiveByte, hq] at h
      · simp only [step, hi, hostTake, receiveByte, hq, Host.Outcome.next.injEq] at h
        exact .inr (.inr (.inr (.inl ⟨rest, b, q, rfl, rfl, h.symm⟩)))
    | deliver b =>
      simp only [step, hi, Host.Outcome.next.injEq] at h
      exact .inr (.inr (.inr (.inr (.inl ⟨rest, b, rfl, h.symm⟩))))
    | reset =>
      simp only [step, hi, Host.Outcome.next.injEq] at h
      exact .inr (.inr (.inr (.inr (.inr ⟨rest, rfl, h.symm⟩))))

end Sys2Proof.Machine
end

