-- ==== Sys2Proof/Laws/PerInstr.lean ====
section
/-! SUPPORT. Statements about every operation as syntax, one lemma per constructor. -/

namespace Sys2Proof.Laws.EncodesInItsRow

/-- The operation's word selects the row of the operation map that has its mnemonic (R100). -/
def Statement (i : Instr) : Prop := ((opRows.find? fun r => r.mnemonic == i.mnemonic).any fun r => r.selects (encode i)) = true

theorem gfadd (a b : Sym) : Statement (.gfadd a b) := by unfold Statement; revert a b; decide
theorem gfmul (a b : Sym) : Statement (.gfmul a b) := by unfold Statement; revert a b; decide
theorem encode (m : Msg) : Statement (.encode m) := by unfold Statement; revert m; decide
theorem synd (b : Byte) : Statement (.synd b) := by unfold Statement; revert b; decide
theorem errpat (s : SyndIdx) : Statement (.errpat s) := by unfold Statement; revert s; decide
theorem correct (b : Byte) : Statement (.correct b) := by unfold Statement; revert b; decide
theorem decode (b : Byte) : Statement (.decode b) := by unfold Statement; revert b; decide
theorem txpos : Statement .txpos := by unfold Statement; decide
theorem txdeath : Statement .txdeath := by unfold Statement; decide
theorem txball : Statement .txball := by unfold Statement; decide
theorem inform (m : Msg) : Statement (.inform m) := by unfold Statement; revert m; decide
theorem rxball : Statement .rxball := by unfold Statement; decide
theorem rdb (f : BitVec 3) : Statement (.rdb f) := by unfold Statement; revert f; decide
theorem wrb (f : BitVec 3) (v : BitVec 4) : Statement (.wrb f v) := by unfold Statement; revert f v; decide

end Sys2Proof.Laws.EncodesInItsRow
end

