-- ==== Sys2Proof/Tests/Slice0.lean ====
section
/-! SUPPORT. Tests of the model on the vectors of 95_test_vectors.md and the examples in the rules, and a witness for the hypotheses
of every statement that has some. -/

namespace Sys2Proof.Tests

open Sys2Proof.Machine

/-! ### Operands outside their domain are refused (30_encoding.md R103) -/

theorem test_wellFormed_refuses_inform : wellFormedAt 5 (.inform 0) = false ∧ wellFormedAt 5 (.inform 3) = false ∧
    wellFormedAt 5 (.inform 15) = false := by decide
theorem test_wellFormed_refuses_rdb : wellFormedAt 5 (.rdb 6) = false ∧ wellFormedAt 5 (.rdb 7) = false := by decide
theorem test_wellFormed_refuses_wrb_field : wellFormedAt 5 (.wrb 6 0) = false ∧ wellFormedAt 5 (.wrb 7 0) = false := by decide
theorem test_wellFormed_refuses_wrb_x : wellFormedAt 5 (.wrb 0 7) = false ∧ wellFormedAt 5 (.wrb 0 8) = false := by decide
theorem test_wellFormed_refuses_wrb_y : wellFormedAt 5 (.wrb 1 5) = false ∧ wellFormedAt 5 (.wrb 1 4) = true := by decide
theorem test_wellFormed_refuses_wrb_dx : wellFormedAt 5 (.wrb 2 0b10) = false ∧ wellFormedAt 5 (.wrb 2 0b0111) = false := by decide
theorem test_wellFormed_refuses_wrb_dy : wellFormedAt 5 (.wrb 3 0b00) = false ∧ wellFormedAt 5 (.wrb 3 0b10) = false := by decide
theorem test_wellFormed_refuses_wrb_flags : wellFormedAt 5 (.wrb 4 2) = false ∧ wellFormedAt 5 (.wrb 5 2) = false := by decide
theorem test_wellFormed_accepts : wellFormedAt 5 (.inform 1) = true ∧ wellFormedAt 5 (.inform 2) = true ∧
    wellFormedAt 5 (.rdb 5) = true ∧ wellFormedAt 5 (.wrb 0 6) = true ∧ wellFormedAt 5 (.wrb 2 0b11) = true := by decide

/-! ### Words written out from the encodings of R96 and R100 -/

theorem test_decode_gfadd : decode 0b0001_0000_10_11#12 = .ok (.gfadd 2 3) := rfl
theorem test_decode_gfmul : decode 0b0010_0000_11_10#12 = .ok (.gfmul 3 2) := rfl
theorem test_decode_encode : decode 0b0011_0000_0110#12 = .ok (.encode 6) := rfl
theorem test_decode_synd : decode 0b0100_0101_1101#12 = .ok (.synd 0x5D) := rfl
theorem test_decode_errpat : decode 0b0101_0000_1011#12 = .ok (.errpat 11) := rfl
theorem test_decode_correct : decode 0b0110_0101_1101#12 = .ok (.correct 0x5D) := rfl
theorem test_decode_decode : decode 0b0111_1010_0101#12 = .ok (.decode 0xA5) := rfl
theorem test_decode_txpos : decode 0b1000_0000_0000#12 = .ok .txpos := rfl
theorem test_decode_txdeath : decode 0b1001_0000_0000#12 = .ok .txdeath := rfl
theorem test_decode_txball : decode 0b1010_0000_0000#12 = .ok .txball := rfl
theorem test_decode_inform : decode 0b1011_0000_0010#12 = .ok (.inform 2) := rfl
theorem test_decode_rxball : decode 0b1100_0000_0000#12 = .ok .rxball := rfl
theorem test_decode_rdb : decode 0b1101_00000_101#12 = .ok (.rdb 5) := rfl
theorem test_decode_wrb : decode 0b1110_0_010_0011#12 = .ok (.wrb 2 3) := rfl
/-- The examples of U1 and U2 (93_implementation_defined.md). -/
theorem test_decode_reserved : decode 0x000 = .error (.reservedOp 0x000) ∧ decode 0xF00 = .error (.reservedOp 0xF00) ∧
    decode 0x110 = .error (.reservedArg 0x110) ∧ decode 0x801 = .error (.reservedArg 0x801) ∧
    decode 0xD08 = .error (.reservedArg 0xD08) ∧ decode 0xE80 = .error (.reservedArg 0xE80) :=
  ⟨rfl, rfl, rfl, rfl, rfl, rfl⟩
/-- No word selects two rows (R100). -/
theorem test_rows_disjoint : opRows.Pairwise fun r q => r.matchBits &&& q.mask &&& r.mask ≠ q.matchBits &&& r.mask := by decide
theorem test_decodeTableWord : decodeTableWord 16 0xE23 = some (.wrb 2 3) ∧ decodeTableWord 16 0x801 = none := ⟨rfl, rfl⟩

/-! ### One operation on a small state -/

/-- A state with every field written, `X` = 3, `DX` = +1, and the given receiver. -/
def st (rxs : RxState) (rxc : BitVec 3) (rxq : List Byte) : State where
  ball := { x := ⟨3, true⟩, y := ⟨0, true⟩, dx := ⟨1, true⟩, dy := ⟨1, true⟩, onscr := ⟨0, true⟩, dead := ⟨0, true⟩ }
  rxs := rxs
  rxc := rxc
  rxq := rxq
  txq := []
  inputs := []
  replies := []
  fresh := 0

/-- The idle receiver. -/
def idle : State := st .awaitCoord 0 []

/-- The part of an outcome that a test looks at. -/
def look {α : Type} (f : State → α) : Out → Option α
  | .next t => some (f t)
  | .fault _ => none
  | .refused _ => none

/-- The refusal an outcome ends in. -/
def refusal : Out → Option Refusal
  | .refused r => some r
  | .next _ => none
  | .fault _ => none

/-- 95_test_vectors.md 2.1. -/
theorem test_gfadd : look (·.replies) (exec (.gfadd 2 3) idle) = some [.result 1] := by decide
theorem test_gfmul : look (·.replies) (exec (.gfmul 2 3) idle) = some [.result 1] := by decide
theorem test_gfmul_square : look (·.replies) (exec (.gfmul 3 3) idle) = some [.result 2] := by decide
/-- 2.2. -/
theorem test_encode : look (·.replies) (exec (.encode 6) idle) = some [.result 0x78] := by decide
/-- 2.3, and the example of R164. -/
theorem test_synd : look (·.replies) (exec (.synd 0x5D) idle) = some [.result 0x0B] := by decide
/-- 2.4. -/
theorem test_errpat : look (·.replies) (exec (.errpat 11) idle) = some [.result 0x08] := by decide
/-- 2.5. -/
theorem test_correct : look (·.replies) (exec (.correct 0xA5) idle) = some [.result 0xAA] := by decide
theorem test_decode_op : look (·.replies) (exec (.decode 0x5F) idle) = some [.result 4] := by decide
/-- 2.5: a two-symbol error decodes to a wrong message. -/
theorem test_decode_op_wrong : look (·.replies) (exec (.decode 0x44) idle) = some [.result 5] := by decide
/-- The example of R192. -/
theorem test_txpos : look (fun t => (t.txq, t.replies)) (exec .txpos idle) = some ([0x55, 0x1B], [.result 2]) := by decide
/-- The example of R196. -/
theorem test_txdeath : look (fun t => (t.txq, t.replies)) (exec .txdeath idle) = some ([0xC9], [.result 1]) := by decide
/-- R200: `DEAD` = 0, then `DEAD` = 1 with nothing else written. -/
theorem test_txball : look (·.txq) (exec .txball idle) = some [0x55, 0x1B] := by decide
theorem test_txball_dead : look (·.txq) (exec .txball { idle with ball := { Ball.reset with dead := ⟨1, true⟩ } }) = some [0xC9] := by
  decide
/-- R204. -/
theorem test_inform : look (·.txq) (exec (.inform 2) idle) = some [0x2D] := by decide
theorem test_inform_refused : refusal (exec (.inform 3) idle) = some (.reservedControlValue 3) := by decide
/-- 2.8: both bytes of a frame and a third one. -/
theorem test_rxball_commit : look (fun t => (t.ball.x, t.ball.dx, t.ball.dy, t.ball.onscr, t.rxs, t.rxq, t.replies))
    (exec .rxball (st .awaitCoord 0 [0x55, 0x1B, 0xC9])) =
    some (⟨3, true⟩, ⟨3, true⟩, ⟨3, true⟩, ⟨1, true⟩, .awaitCoord, [0xC9], [.result 2]) := rfl
/-- 2.8: the sentinel in AWAIT_DIR is a bad direction and does not set `DEAD`. -/
theorem test_rxball_sentinel_as_direction : look (fun t => (t.ball.dead, t.rxs, t.replies)) (exec .rxball (st .awaitDir 6 [0xC9])) =
    some (⟨0, true⟩, .awaitCoord, [.result 5]) := by decide
/-- 2.9. -/
theorem test_rdb_dx : look (·.replies) (exec (.rdb 2) { idle with ball := { idle.ball with dx := ⟨3, true⟩ } }) =
    some [.result 3] := by decide
theorem test_rdb_refused : refusal (exec (.rdb 6) idle) = some (.noSuchField 6) := by decide
theorem test_wrb_dx : look (fun t => (t.ball.dx, t.ball.x, t.replies)) (exec (.wrb 2 3) idle) =
    some (⟨3, true⟩, ⟨3, true⟩, [.result 0]) := by decide
theorem test_wrb_refused : refusal (exec (.wrb 0 7) idle) = some (.illegalFieldValue 0 7) := by decide

/-- Every operation runs as the first one after reset. -/
theorem test_first_operation_runs :
    ∀ w ∈ [0x10B, 0x20F, 0x306, 0x45D, 0x50B, 0x65D, 0x75D, 0x800, 0x900, 0xA00, 0xB02, 0xC00, 0xD02, 0xE23],
      (look (fun _ => ()) (step (State.reset.withFetchWord 16 w))).isSome = true := by
  intro w hw
  fin_cases hw <;> rfl

/-! ### The hypotheses of the statements can be met -/

theorem witness_ReservedOperationNumbersRefused :
    ({ idle with inputs := [.command 0x0FF] } : State).inputs = .command 0x0FF :: [] ∧ (0x0FF#12).extractLsb' 8 4 = 0x0#4 ∧
    (0xF00#12).extractLsb' 8 4 = 0xF#4 := by decide
theorem witness_ReservedArgumentBitsRefused :
    ({ idle with inputs := [.command 0x110] } : State).inputs = .command 0x110 :: [] ∧
    ((0x110#12).extractLsb' 8 4 ∈ [0x1#4, 0x2#4, 0x3#4, 0x5#4, 0xB#4] ∧ (0x110#12).extractLsb' 4 4 ≠ 0#4) ∧
    ((0x801#12).extractLsb' 8 4 ∈ [0x8#4, 0x9#4, 0xA#4, 0xC#4] ∧ (0x801#12).extractLsb' 0 8 ≠ 0#8) ∧
    ((0xD08#12).extractLsb' 8 4 = 0xD#4 ∧ (0xD08#12).extractLsb' 3 5 ≠ 0#5) ∧
    ((0xE80#12).extractLsb' 8 4 = 0xE#4 ∧ (0xE80#12).extractLsb' 7 1 ≠ 0#1) := by decide
theorem witness_OnlyItsOwnWordNamesAnOperation : decode 0xE23 = .ok (.wrb 2 3) := rfl
theorem witness_StepRunsTheDecodedOperation :
    ({ idle with inputs := [.command 0x800] } : State).inputs = .command 0x800 :: [] ∧ decode 0x800 = .ok .txpos := ⟨rfl, rfl⟩
theorem witness_NothingHappensUnasked : idle.inputs = [] := rfl
theorem witness_FieldLaws : gfmul 0 3 = 0 ∧ (3 : Sym) ≠ 0 := by decide
theorem witness_EncoderIsLinearWithDistanceThree : encodeMsg 3 = encodeMsg 3 ∧ (0 : Msg) ≠ 15 := by decide
theorem witness_SyndromeSeesOnlyTheCorruption : syndrome 0xC9 = 0 := by decide
theorem witness_SingleSymbolErrorsAreCorrected : (1 : Sym) ≠ 0 ∧ (3 : Sym) ≠ 0 := by decide
theorem witness_TxposSendsThePositionFrame : idle.ball.x.written = true ∧ idle.ball.dx.written = true ∧
    idle.ball.x.bits.toNat ≤ 6 ∧ idle.ball.dx.bits ≠ 0b10#2 := by decide
theorem witness_TxballChoosesOnTheDeadFlag : idle.ball.dead.written = true ∧ idle.ball.dead.bits = 0#1 ∧
    idle.ball.x.written = true ∧ idle.ball.dx.written = true ∧ (setDead idle.ball).dead.written = true ∧
    (setDead idle.ball).dead.bits = 1#1 := by decide
theorem witness_TxballRunsOnUnwrittenFields : State.reset.ball.dead.written = false ∧ idle.ball.dead.bits = 0#1 := by decide
theorem witness_InformSendsControlSignals : (0 : Msg) ≠ 1 ∧ (0 : Msg) ≠ 2 ∧ (3 : Msg) ≠ 1 ∧ (3 : Msg) ≠ 2 := by decide
theorem witness_TransmitTouchesOnlyTheTransmitStream :
    (∃ t, exec .txpos idle = .next t) ∧ (∃ t, exec .txdeath idle = .next t) ∧ (∃ t, exec .txball idle = .next t) ∧
    ∃ t, exec (.inform 1) idle = .next t := ⟨⟨_, rfl⟩, ⟨_, rfl⟩, ⟨_, rfl⟩, ⟨_, rfl⟩⟩
theorem witness_RxballWithNothingReady : (st .awaitDir 6 []).rxq = [] := rfl
theorem witness_RxballLatchesTheCoordinate : (st .awaitCoord 0 [0x1B]).rxs = .awaitCoord ∧ (st .awaitCoord 0 [0x1B]).rxq = 0x1B :: [] ∧
    (decodeByte 0x1B).toNat = 1 ∧ (decodeByte 0x63).toNat = 7 := by decide
theorem witness_RxballSetsDeadOnTheSentinel : (st .awaitCoord 0 [0xC9, 0x55]).rxs = .awaitCoord ∧
    (st .awaitCoord 0 [0xC9, 0x55]).rxq = 0xC9 :: [0x55] ∧ decodeByte 0xC9 = 15 := by decide
theorem witness_RxballDropsNoise : (st .awaitCoord 0 [0xAA]).rxs = .awaitCoord ∧ (st .awaitCoord 0 [0xAA]).rxq = 0xAA :: [] ∧
    decodeByte 0x00 = 0 ∧ (decodeByte 0xAA).toNat = 8 ∧ (decodeByte 0xD2).toNat = 14 := by decide
theorem witness_RxballTakesTheDirection : (st .awaitDir 6 [0x1B]).rxs = .awaitDir ∧ (st .awaitDir 6 [0x1B]).rxq = 0x1B :: [] ∧
    (decodeByte 0x1B).toNat = 1 ∧ (decodeByte 0x36).toNat = 3 ∧ (decodeByte 0x00).toNat = 0 ∧ (decodeByte 0x55).toNat = 4 := by
  decide
theorem witness_RxballTakesBothBytesOfAFrame : (st .awaitCoord 0 [0x63, 0x36]).rxs = .awaitCoord ∧
    (st .awaitCoord 0 [0x63, 0x36]).rxq = 0x63 :: 0x36 :: [] ∧ (decodeByte 0x63).toNat = 7 ∧ (decodeByte 0x1B).toNat = 1 ∧
    (decodeByte 0x36).toNat = 3 ∧ (decodeByte 0x55).toNat = 4 ∧ (decodeByte 0x00).toNat = 0 := by decide
theorem witness_RxballIsTotalAndBounded : (st .awaitDir 0 [0x1B]).rxs = .awaitDir := rfl
theorem witness_CommitIsAllOrNothing : ∃ t, exec .rxball (st .awaitCoord 0 [0x63, 0x36]) = .next t := ⟨_, rfl⟩
theorem witness_BallCrossesAOneSymbolLink : idle.ball.x.written = true ∧ idle.ball.dx.written = true ∧
    idle.ball.x.bits.toNat ≤ 6 ∧ idle.ball.dx.bits ≠ 0b10#2 ∧ idle.rxs = .awaitCoord ∧ idle.rxq = [] ∧
    linkOneSym [0x55, 0x1B] [0x5D, 0x9B] :=
  ⟨rfl, rfl, by decide, by decide, rfl, rfl, .cons (by decide) (.cons (by decide) .nil)⟩
theorem witness_StalledFrameEatsTheNextOne : (st .awaitDir 3 [0x78, 0x36]).rxs = .awaitDir ∧
    (st .awaitDir 3 [0x78, 0x36]).rxq = [encodeMsg 6, encodeMsg 3] ∧ (st .awaitDir 3 [0x1B, 0x1B]).rxq = [encodeMsg 1, encodeMsg 1] ∧
    1 ≤ (6 : Msg).toNat ∧ (6 : Msg).toNat ≤ 7 ∧ 1 ≤ (3 : Msg).toNat ∧ (3 : Msg).toNat ≤ 3 := by decide
theorem witness_RdbReadsAWrittenField : ∀ f ∈ [Field.x, .y, .dx, .dy, .onscr, .dead], idle.ball.isWritten f = true := by decide
theorem witness_RdbRunsOnAnUnwrittenField :
    ∀ f ∈ [Field.x, .y, .dx, .dy, .onscr, .dead], State.reset.ball.isWritten f = false := by decide
theorem witness_WrittenFieldReadsBack : ∃ t, exec (.wrb 2 3) idle = .next t := ⟨_, rfl⟩

/-- A state with a legal record. -/
theorem inv_idle : idle.inv := by
  refine ⟨⟨by decide, ?_, by decide, by decide, by decide, by decide⟩, fun h => by cases h⟩
  have := height_pos
  simp [legalValue, idle, st]; omega

theorem witness_StepKeepsTheRecordLegal :
    ({ idle with inputs := [.command 0xE23] } : State).inv ∧ ∃ t, step { idle with inputs := [.command 0xE23] } = .next t :=
  ⟨inv_idle, _, rfl⟩
theorem witness_ResetForgetsTheRecord : ({ idle with inputs := [.reset] } : State).inputs = .reset :: [] := rfl
theorem witness_HostCallsTheTransport : ({ idle with inputs := [.hostPoll] } : State).inputs = .hostPoll :: [] ∧
    ({ st .awaitCoord 0 [0x1B] with inputs := [.hostTake] } : State).inputs = .hostTake :: [] ∧
    ({ st .awaitCoord 0 [0x1B] with inputs := [.hostTake] } : State).rxq = 0x1B :: [] ∧ idle.rxq = [] := ⟨rfl, rfl, rfl, rfl⟩
theorem witness_LinkOnlyAppends : ({ idle with inputs := [.deliver 0x55] } : State).inputs = .deliver 0x55 :: [] := rfl
theorem witness_OutputsOnlyGrow : ∃ t, step { idle with inputs := [.command 0x800] } = .next t := ⟨_, rfl⟩
theorem witness_OnlyRxballMovesTheReceiver : Instr.txpos ≠ .rxball ∧ ∃ t, exec .txpos idle = .next t := ⟨by decide, _, rfl⟩
theorem witness_OnlyWrbAndRxballWriteTheRecord : (∃ t, exec (.rdb 0) idle = .next t) ∧ Instr.rdb 0 ≠ .rxball ∧
    (∀ f v, Instr.rdb 0 ≠ .wrb f v) ∧ Instr.rdb 0 ≠ .txpos ∧ Instr.rdb 0 ≠ .txdeath ∧ Instr.rdb 0 ≠ .txball ∧
    ∀ m, Instr.rdb 0 ≠ .inform m :=
  ⟨⟨_, rfl⟩, nofun, nofun, nofun, nofun, nofun, nofun⟩
theorem witness_OnlyTheHostClearsAFlag : (setDead (setOnscr idle.ball)).onscr = ⟨1, true⟩ ∧
    (setDead (setOnscr idle.ball)).dead = ⟨1, true⟩ ∧
    ∃ t, exec .rxball { st .awaitDir 3 [0x1B] with ball := setDead (setOnscr idle.ball) } = .next t := ⟨rfl, rfl, _, rfl⟩
theorem witness_DefinedReadsUseNoFreeValue : readsDefined .txball idle = true ∧ ∃ t, exec .txball idle = .next t :=
  ⟨by decide, _, rfl⟩

/-- Two idle devices and a link that has delivered nothing. -/
def pair : System := ⟨idle, idle, [], []⟩

/-- Device A's host sends the death sentinel and the perfect link delivers it to B. -/
theorem witness_PerfectLinkDeliversWhatWasSent : pair.toB <+: pair.a.txq ∧ pair.toA <+: pair.b.txq ∧
    ∃ z, SystemRun linkPerfect pair z ∧ z.toB = [0xC9] := by
  refine ⟨by decide, by decide, _, .tail _ _ _ (.tail _ _ _ (.refl _) (.hostA _ (.command 0x900) _ rfl rfl)) (.linkToB _ 0xC9 ?_), rfl⟩
  exact ⟨_, rfl, [], rfl⟩

theorem witness_BothRecordsStayLegalUnderAnyLink : pair.a.inv ∧ pair.b.inv ∧
    ∃ z, SystemRun linkAny pair z ∧ z.toB = [0x42] := by
  refine ⟨inv_idle, inv_idle, _, .tail _ _ _ (.refl _) (.linkToB _ 0x42 ?_), rfl⟩
  exact ⟨[0x42], trivial, [], rfl⟩

end Sys2Proof.Tests
end

section
/-! The step on a command word (00_scope.md R8, R35). -/

namespace Sys2Proof.Proofs.Scope

open Sys2Proof Sys2Proof.Machine

/-- Settles O6: the waiting word selects the command branch of `step`, and the decoded operation its `ok` branch. -/
theorem stepRunsTheDecodedOperation : Obligations.StepRunsTheDecodedOperation := by
  intro s w rest i hinputs hdecode
  simp only [step, hinputs, hdecode]

end Sys2Proof.Proofs.Scope
end

section
/-! The ball-state record and the receive state (10_state.md): what an operation can do to a device, and what every step keeps. -/

namespace Sys2Proof.Proofs.BallState

open Sys2Proof Sys2Proof.Machine

/-! ### The receive steps -/

/-- What one receive step keeps, the one or two steps of an `RXBALL` keep (R233). -/
theorem rxSteps_keeps {P : State → Prop} (hstep : ∀ s, P s → P (rxStep s).2) {s : State} (hs : P s) : P (rxSteps s).2 := by
  rcases h : rxStep s with ⟨e, t⟩
  have ht : P t := by simpa only [h] using hstep s hs
  by_cases he : e = .pending
  · rw [rxSteps_pending (he ▸ h)]
    exact hstep t ht
  · rw [rxSteps_single h he]
    exact ht

/-- The receiver writes the record only as the sentinel or as a whole frame (R225, R227). -/
theorem rxStep_ball (s : State) :
    (rxStep s).2.ball = s.ball ∨ (rxStep s).2.ball = setDead s.ball ∨ ∃ c d, (rxStep s).2.ball = commitBall c d s.ball := by
  rcases rxStep_cases s with ⟨_, h⟩ | ⟨b, q, _, ⟨_, _, _, h⟩ | ⟨_, _, h⟩ | ⟨_, _, h⟩ | ⟨_, _, _, h⟩ | ⟨_, _, h⟩⟩ <;> rw [h]
  · exact .inl rfl
  · exact .inl rfl
  · exact .inr (.inl rfl)
  · exact .inl rfl
  · exact .inr (.inr ⟨_, _, rfl⟩)
  · exact .inl rfl

/-- The receiver sets `ONSCR` and never clears it (R30). -/
theorem rxStep_keeps_onscr (s : State) (hs : s.ball.onscr = ⟨1, true⟩) : (rxStep s).2.ball.onscr = ⟨1, true⟩ := by
  rcases rxStep_ball s with h | h | ⟨c, d, h⟩ <;> simp [h, hs]

/-- The receiver sets `DEAD` and never clears it (R30). -/
theorem rxStep_keeps_dead (s : State) (hs : s.ball.dead = ⟨1, true⟩) : (rxStep s).2.ball.dead = ⟨1, true⟩ := by
  rcases rxStep_ball s with h | h | ⟨c, d, h⟩ <;> simp [h, hs]

/-- The receiver sends nothing (R57). -/
theorem rxStep_txq (s : State) : (rxStep s).2.txq = s.txq := by
  rcases rxStep_cases s with ⟨_, h⟩ | ⟨b, q, _, ⟨_, _, _, h⟩ | ⟨_, _, h⟩ | ⟨_, _, h⟩ | ⟨_, _, _, h⟩ | ⟨_, _, h⟩⟩ <;> rw [h]

theorem rxSteps_txq (s : State) : (rxSteps s).2.txq = s.txq :=
  rxSteps_keeps (P := fun t => t.txq = s.txq) (fun t ht => (rxStep_txq t).trans ht) rfl

/-! ### What an operation can do -/

/-- The four operations that send: `TXPOS`, `TXDEATH`, `TXBALL`, `INFORM` (R57). -/
def transmits (i : Instr) : Prop := i = .txpos ∨ i = .txdeath ∨ i = .txball ∨ ∃ m, i = .inform m

/-- Sending a position frame moves only `TXQ`, the replies and the counter of free values. -/
theorem transmitPosition_frame (s : State) : ∃ res q n, transmitPosition s = reply res { s with txq := q, fresh := n } := by
  obtain ⟨x, dx, n, h⟩ := transmitPosition_sends s
  exact ⟨_, _, n, h⟩

/-- Everything an operation that completes can have done: only answer, transmit, receive, or write one field. -/
theorem exec_cases {i : Instr} {s t : State} (h : exec i s = .next t) :
    (∃ res n, t = reply res { s with fresh := n }) ∨
    (transmits i ∧ ∃ res q n, t = reply res { s with txq := q, fresh := n }) ∨
    (i = .rxball ∧ t = reply (eventCode (rxSteps s).1) (rxSteps s).2) ∨
    (∃ f v fd, i = .wrb f v ∧ fieldOf f = some fd ∧ legalValue Config.height fd v = true ∧
      t = reply 0 { s with ball := writeField fd v s.ball }) := by
  cases i with
  | gfadd _ _ | gfmul _ _ | encode _ | synd _ | errpat _ | correct _ | decode _ =>
    obtain rfl := Host.Outcome.next.inj h
    exact .inl ⟨_, s.fresh, rfl⟩
  | txpos =>
    obtain rfl := Host.Outcome.next.inj h
    exact .inr (.inl ⟨.inl rfl, transmitPosition_frame s⟩)
  | txdeath =>
    obtain rfl := Host.Outcome.next.inj h
    exact .inr (.inl ⟨.inr (.inl rfl), _, _, s.fresh, rfl⟩)
  | txball =>
    obtain rfl := Host.Outcome.next.inj h
    refine .inr (.inl ⟨.inr (.inr (.inl rfl)), ?_⟩)
    obtain ⟨n, hn⟩ := readReg_state s.ball.dead s
    rw [hn]
    split
    · exact ⟨_, _, n, rfl⟩
    · exact transmitPosition_frame { s with fresh := n }
  | inform m =>
    simp only [exec, execInform] at h
    split at h
    · obtain rfl := Host.Outcome.next.inj h
      exact .inr (.inl ⟨.inr (.inr (.inr ⟨m, rfl⟩)), _, _, s.fresh, rfl⟩)
    · cases h
  | rxball => exact .inr (.inr (.inl ⟨rfl, (Host.Outcome.next.inj h).symm⟩))
  | rdb f =>
    simp only [exec, execRdb] at h
    split at h
    · cases h
    · next fd _ =>
      obtain rfl := Host.Outcome.next.inj h
      obtain ⟨n, hn⟩ := readField_state fd s
      exact .inl ⟨_, n, congrArg _ hn⟩
  | wrb f v =>
    simp only [exec, execWrb] at h
    split at h
    · cases h
    · next fd hf =>
      split at h
      · next hv => exact .inr (.inr (.inr ⟨f, v, fd, rfl, hf, hv, (Host.Outcome.next.inj h).symm⟩))
      · cases h

/-! ### Writing one flag -/

/-- Only index 4 names `ONSCR`, and only index 5 names `DEAD` (R21). -/
theorem fieldOf_onscr : ∀ f : BitVec 3, fieldOf f = some .onscr → f = 4 := by decide

theorem fieldOf_dead : ∀ f : BitVec 3, fieldOf f = some .dead → f = 5 := by decide

/-- Writing another field leaves `ONSCR` as it is. -/
theorem writeField_onscr_of_ne {fd : Field} (h : fd ≠ .onscr) (v : BitVec 4) (b : Ball) : (writeField fd v b).onscr = b.onscr := by
  cases fd with
  | onscr => exact absurd rfl h
  | x | y | dx | dy | dead => rfl

/-- Writing another field leaves `DEAD` as it is. -/
theorem writeField_dead_of_ne {fd : Field} (h : fd ≠ .dead) (v : BitVec 4) (b : Ball) : (writeField fd v b).dead = b.dead := by
  cases fd with
  | dead => exact absurd rfl h
  | x | y | dx | dy | onscr => rfl

/-! ### Legal records -/

/-- The record at reset is legal (log entry 3). -/
theorem legal_reset : Ball.reset.legal Config.height :=
  ⟨by decide, decide_eq_true height_pos, by decide, by decide, by decide, by decide⟩

/-- The death sentinel's flag write keeps the record legal (R225). -/
theorem legal_setDead {h : Nat} {b : Ball} (hb : b.legal h) : (setDead b).legal h := by
  obtain ⟨hx, hy, hdx, hdy, honscr, _⟩ := hb
  exact ⟨hx, hy, hdx, hdy, honscr, rfl⟩

/-- The direction a frame brings is a legal `DX` (R222, R227). -/
theorem legalValue_dx_dirOf {h : Nat} : ∀ m : Msg, 1 ≤ m.toNat → m.toNat ≤ 3 →
    legalValue h .dx ((BitVec.ofInt 2 (dirOf m)).setWidth 4) = true := by
  simp only [legalValue]
  decide

/-- The top row is a legal `Y` (R228). -/
theorem legalValue_y_topRow : legalValue Config.height .y (BitVec.ofNat 4 (Config.height - 1)) = true := by
  have hpos := height_pos
  have hle := height_le
  simp only [legalValue, BitVec.toNat_ofNat, decide_eq_true_eq]
  omega

/-- A committed frame is a legal record, when the coordinate that was latched is one (R227, R228). -/
theorem legal_commitBall {b : Ball} {c : BitVec 3} {m : Msg} (hb : b.legal Config.height) (hc : (c.toNat : Int) ≤ wallMax)
    (h1 : 1 ≤ m.toNat) (h3 : m.toNat ≤ 3) : (commitBall c (dirOf m) b).legal Config.height := by
  obtain ⟨_, _, _, _, _, hdead⟩ := hb
  refine ⟨?_, legalValue_y_topRow, legalValue_dx_dirOf m h1 h3, rfl, rfl, hdead⟩
  simpa [legalValue, Nat.mod_eq_of_lt (Nat.lt_trans c.isLt (by decide : 2 ^ 3 < 16))] using hc

/-- How many bits a field's register holds (R21). -/
def fieldWidth : Field → Nat
  | .x => 3
  | .y => 4
  | .dx => 2
  | .dy => 2
  | .onscr => 1
  | .dead => 1

/-- A legal value is still legal when read back from its field's register: no set bit of it is lost (R97). -/
theorem legalValue_readBack {h : Nat} {fd : Field} {v : BitVec 4} (hv : legalValue h fd v = true) :
    legalValue h fd ((v.setWidth (fieldWidth fd)).setWidth 4) = true := by
  cases fd with
  | y => simpa only [fieldWidth, BitVec.setWidth_eq] using hv
  | x | dx | dy | onscr | dead =>
    simp only [legalValue] at hv ⊢
    revert v
    decide

/-- Writing a legal value into one field keeps the record legal (R253). -/
theorem legal_writeField {h : Nat} {b : Ball} {fd : Field} {v : BitVec 4} (hb : b.legal h) (hv : legalValue h fd v = true) :
    (writeField fd v b).legal h := by
  obtain ⟨hx, hy, hdx, hdy, honscr, hdead⟩ := hb
  cases fd with
  | x => exact ⟨legalValue_readBack hv, hy, hdx, hdy, honscr, hdead⟩
  | y => exact ⟨hx, hv, hdx, hdy, honscr, hdead⟩
  | dx => exact ⟨hx, hy, legalValue_readBack hv, hdy, honscr, hdead⟩
  | dy => exact ⟨hx, hy, hdx, legalValue_readBack hv, honscr, hdead⟩
  | onscr => exact ⟨hx, hy, hdx, hdy, legalValue_readBack hv, hdead⟩
  | dead => exact ⟨hx, hy, hdx, hdy, honscr, legalValue_readBack hv⟩

/-! ### The invariant -/

/-- The invariant speaks of the record, `rxs` and `rxc` only. -/
theorem inv_of_same_block {s t : State} (hball : t.ball = s.ball) (hrxs : t.rxs = s.rxs) (hrxc : t.rxc = s.rxc) (hs : s.inv) :
    t.inv := by
  unfold State.inv at hs ⊢
  rwa [hball, hrxs, hrxc]

/-- What is still to happen has no part in the invariant. -/
theorem inv_withInputs {s : State} (l : List Input) (hs : s.inv) : ({ s with inputs := l } : State).inv :=
  inv_of_same_block rfl rfl rfl hs

/-- With no frame in progress a legal record is enough. -/
theorem inv_of_awaitCoord {s : State} (hb : s.ball.legal Config.height) (hs : s.rxs = .awaitCoord) : s.inv :=
  ⟨hb, fun h => by simp [hs] at h⟩

/-- Latching a coordinate keeps the invariant: a message in 1..7 gives a coordinate in 0..6 (R223, R224). -/
theorem latched_le_wallMax {m : Msg} (h7 : m.toNat ≤ 7) :
    ((BitVec.ofNat 3 (m.toNat - 1)).toNat : Int) ≤ wallMax := by
  simp only [BitVec.toNat_ofNat, wallMax]
  omega

/-- Every row of R230 keeps the invariant. -/
theorem rxStep_keeps_inv (s : State) (hs : s.inv) : (rxStep s).2.inv := by
  obtain ⟨hball, hrxc⟩ := hs
  rcases rxStep_cases s with ⟨_, h⟩ | ⟨b, q, _, ⟨_, _, h7, h⟩ | ⟨hst, _, h⟩ | ⟨hst, _, h⟩ | ⟨hst, h1, h3, h⟩ | ⟨_, _, h⟩⟩ <;> rw [h]
  · exact ⟨hball, hrxc⟩
  · exact ⟨hball, fun _ => latched_le_wallMax h7⟩
  · exact inv_of_awaitCoord (legal_setDead hball) hst
  · exact ⟨hball, hrxc⟩
  · exact inv_of_awaitCoord (legal_commitBall hball (hrxc hst) h1 h3) rfl
  · exact inv_of_awaitCoord hball rfl

/-- Every operation keeps the invariant. -/
theorem exec_keeps_inv {i : Instr} {s t : State} (hs : s.inv) (h : exec i s = .next t) : t.inv := by
  rcases exec_cases h with ⟨res, n, rfl⟩ | ⟨_, res, q, n, rfl⟩ | ⟨_, rfl⟩ | ⟨f, v, fd, _, _, hv, rfl⟩
  · exact inv_of_same_block rfl rfl rfl hs
  · exact inv_of_same_block rfl rfl rfl hs
  · exact inv_of_same_block rfl rfl rfl (rxSteps_keeps rxStep_keeps_inv hs)
  · obtain ⟨hball, hrxc⟩ := hs
    exact ⟨legal_writeField hball hv, hrxc⟩

/-- Every step keeps the invariant: an operation, the host's own calls, a delivery and reset. -/
theorem step_keeps_inv {s t : State} (hs : s.inv) (h : step s = .next t) : t.inv := by
  rcases step_cases h with ⟨_, rfl⟩ | ⟨w, rest, i, _, _, hexec⟩ | ⟨rest, _, rfl⟩ | ⟨rest, b, q, _, _, rfl⟩ | ⟨rest, b, _, rfl⟩ |
    ⟨rest, _, rfl⟩
  · exact hs
  · exact exec_keeps_inv (inv_withInputs rest hs) hexec
  · exact inv_of_same_block rfl rfl rfl hs
  · exact inv_of_same_block rfl rfl rfl hs
  · exact inv_of_same_block rfl rfl rfl hs
  · exact inv_of_awaitCoord legal_reset rfl

/-- A host's act on its own device keeps that device's invariant. -/
theorem actOn_keeps_inv {i : Input} {s t : State} (hs : s.inv) (h : actOn i s = .next t) : t.inv :=
  step_keeps_inv (inv_withInputs (i :: s.inputs) hs) h

/-- The link's delivery touches only `RXQ`. -/
theorem linkDeliver_keeps_inv {s : State} (b : Byte) (hs : s.inv) : (linkDeliver b s).inv := inv_of_same_block rfl rfl rfl hs

/-- Every step of the two-device system keeps both invariants, whatever the link. -/
theorem systemStep_keeps_inv {link : Link} {y z : System} (h : SystemStep link y z) (ha : y.a.inv) (hb : y.b.inv) :
    z.a.inv ∧ z.b.inv := by
  cases h with
  | hostA i a' _ hact => exact ⟨actOn_keeps_inv ha hact, hb⟩
  | hostB i b' _ hact => exact ⟨ha, actOn_keeps_inv hb hact⟩
  | linkToB g _ => exact ⟨ha, linkDeliver_keeps_inv g hb⟩
  | linkToA g _ => exact ⟨linkDeliver_keeps_inv g ha, hb⟩

/-! ### Free values -/

/-- The update `f` neither takes a free value in `s` nor lets the counter of free values matter (R293, log entry 4). -/
def usesNoFreeValue (f : State → State) (s : State) : Prop := ∀ n, f { s with fresh := n } = { f s with fresh := n }

/-- An operation that is such an update leaves the counter alone, and any counter gives the same effect. -/
theorem next_of_usesNoFreeValue {f : State → State} {s t : State} (hf : usesNoFreeValue f s) (h : (.next (f s) : Out) = .next t)
    (n : Nat) : t.fresh = s.fresh ∧ (.next (f { s with fresh := n }) : Out) = .next { t with fresh := n } := by
  obtain rfl := Host.Outcome.next.inj h
  have hsame : f s = { f s with fresh := s.fresh } := hf s.fresh
  exact ⟨(congrArg State.fresh hsame :), congrArg _ (hf n)⟩

theorem usesNoFreeValue_reply (res : Byte) (s : State) : usesNoFreeValue (reply res) s := fun _ => rfl

/-- What computes an answer without a free value may reply with it. -/
theorem usesNoFreeValue_answer {α : Type} {g : State → α × State} {s : State} (code : α → Byte)
    (hg : ∀ n, g { s with fresh := n } = ((g s).1, { (g s).2 with fresh := n })) :
    usesNoFreeValue (fun u => reply (code (g u).1) (g u).2) s := by
  intro n
  beta_reduce
  rw [hg n]
  rfl

theorem usesNoFreeValue_transmitDeath (s : State) : usesNoFreeValue transmitDeath s := fun _ => rfl

theorem usesNoFreeValue_transmitPosition {s : State} (hx : s.ball.x.written = true) (hd : s.ball.dx.written = true) :
    usesNoFreeValue transmitPosition s := by
  intro n
  rw [transmitPosition_written hx hd, transmitPosition_written (s := { s with fresh := n }) hx hd]
  rfl

/-- A written field's value does not depend on the counter of free values (R251). -/
theorem readField_written_withFresh {f : Field} {s : State} (h : s.ball.isWritten f = true) (n : Nat) :
    readField f { s with fresh := n } = ((readField f s).1, { (readField f s).2 with fresh := n }) := by
  cases f <;> simp_all [readField, Ball.isWritten]

theorem takeCoord_withFresh (m : Msg) (s : State) (n : Nat) :
    takeCoord m { s with fresh := n } = ((takeCoord m s).1, { (takeCoord m s).2 with fresh := n }) := by
  simp only [takeCoord]
  split_ifs <;> rfl

theorem takeDir_withFresh (m : Msg) (s : State) (n : Nat) :
    takeDir m { s with fresh := n } = ((takeDir m s).1, { (takeDir m s).2 with fresh := n }) := by
  simp only [takeDir]
  split_ifs <;> rfl

/-- The two receive frame states (R36). -/
theorem rxs_cases (s : State) : s.rxs = .awaitCoord ∨ s.rxs = .awaitDir := by cases s.rxs <;> simp

/-- A receive step reads no field of the record. -/
theorem rxStep_withFresh (s : State) (n : Nat) :
    rxStep { s with fresh := n } = ((rxStep s).1, { (rxStep s).2 with fresh := n }) := by
  rcases receiveByte_cases s with ⟨hq, _⟩ | ⟨b, q, hq, _⟩
  · rw [rxStep_empty hq, rxStep_empty (s := { s with fresh := n }) hq]
  · rcases rxs_cases s with hs | hs
    · rw [rxStep_coord hq hs, rxStep_coord (s := { s with fresh := n }) hq hs]
      exact takeCoord_withFresh (decodeByte b) { s with rxq := q } n
    · rw [rxStep_dir hq hs, rxStep_dir (s := { s with fresh := n }) hq hs]
      exact takeDir_withFresh (decodeByte b) { s with rxq := q } n

theorem rxSteps_withFresh (s : State) (n : Nat) :
    rxSteps { s with fresh := n } = ((rxSteps s).1, { (rxSteps s).2 with fresh := n }) := by
  rcases h : rxStep s with ⟨e, t⟩
  have hn : rxStep { s with fresh := n } = (e, { t with fresh := n }) := by rw [rxStep_withFresh, h]
  by_cases he : e = .pending
  · subst he
    rw [rxSteps_pending h, rxSteps_pending hn, rxStep_withFresh]
  · rw [rxSteps_single h he, rxSteps_single hn he]

/-! ### The statements -/

/-- Settles O46: the reset values are legal, and no frame is in progress. -/
theorem resetRecordIsLegal : Obligations.ResetRecordIsLegal := inv_of_awaitCoord legal_reset rfl

/-- Settles O51, by what an operation can do: of its four kinds only receiving touches the receiver. -/
theorem onlyRxballMovesTheReceiver : Obligations.OnlyRxballMovesTheReceiver := by
  intro i s t hi h
  rcases exec_cases h with ⟨res, n, rfl⟩ | ⟨_, res, q, n, rfl⟩ | ⟨hrx, _⟩ | ⟨f, v, fd, _, _, _, rfl⟩
  · exact ⟨rfl, rfl, rfl⟩
  · exact ⟨rfl, rfl, rfl⟩
  · exact absurd hrx hi
  · exact ⟨rfl, rfl, rfl⟩

/-- Settles O52, by what an operation can do: answering and transmitting leave the record, and all but transmitting leave `TXQ`. -/
theorem onlyWrbAndRxballWriteTheRecord : Obligations.OnlyWrbAndRxballWriteTheRecord := by
  intro i s t h
  rcases exec_cases h with ⟨res, n, rfl⟩ | ⟨hi, res, q, n, rfl⟩ | ⟨hi, rfl⟩ | ⟨f, v, fd, hi, _, _, rfl⟩
  · exact ⟨fun _ _ => rfl, fun _ _ _ _ => rfl⟩
  · refine ⟨fun _ _ => rfl, fun hpos hdeath hball hinform => ?_⟩
    rcases hi with hi | hi | hi | ⟨m, hi⟩
    · exact absurd hi hpos
    · exact absurd hi hdeath
    · exact absurd hi hball
    · exact absurd hi (hinform m)
  · exact ⟨fun hrx _ => absurd hi hrx, fun _ _ _ _ => rxSteps_txq s⟩
  · exact ⟨fun _ hwrb => absurd hi (hwrb f v), fun _ _ _ _ => rfl⟩

/-- Settles O53, by what an operation can do: the receiver only sets flags, and a host's write reaches only the field it names. -/
theorem onlyTheHostClearsAFlag : Obligations.OnlyTheHostClearsAFlag := by
  intro i s t h
  rcases exec_cases h with ⟨res, n, rfl⟩ | ⟨_, res, q, n, rfl⟩ | ⟨_, rfl⟩ | ⟨f, v, fd, rfl, hf, _, rfl⟩
  · exact ⟨.inl, .inl⟩
  · exact ⟨.inl, .inl⟩
  · exact ⟨fun hs => .inl (rxSteps_keeps (P := fun u => u.ball.onscr = ⟨1, true⟩) rxStep_keeps_onscr hs),
      fun hs => .inl (rxSteps_keeps (P := fun u => u.ball.dead = ⟨1, true⟩) rxStep_keeps_dead hs)⟩
  · constructor
    · intro hs
      by_cases hfd : fd = .onscr
      · exact .inr ⟨v, by rw [fieldOf_onscr f (hfd ▸ hf)]⟩
      · exact .inl ((writeField_onscr_of_ne hfd v s.ball).trans hs)
    · intro hs
      by_cases hfd : fd = .dead
      · exact .inr ⟨v, by rw [fieldOf_dead f (hfd ▸ hf)]⟩
      · exact .inl ((writeField_dead_of_ne hfd v s.ball).trans hs)

/-- Settles O54: with the fields it reads written, every operation is an update that uses no free value. -/
theorem definedReadsUseNoFreeValue : Obligations.DefinedReadsUseNoFreeValue := by
  intro i s t n hreads h
  cases i with
  | gfadd _ _ | gfmul _ _ | encode _ | synd _ | errpat _ | correct _ | decode _ =>
    exact next_of_usesNoFreeValue (usesNoFreeValue_reply _ s) h n
  | txpos =>
    obtain ⟨hx, hd⟩ := Bool.and_eq_true_iff.1 hreads
    exact next_of_usesNoFreeValue (usesNoFreeValue_transmitPosition hx hd) h n
  | txdeath => exact next_of_usesNoFreeValue (usesNoFreeValue_transmitDeath s) h n
  | txball =>
    simp only [readsDefined, Bool.and_eq_true, Bool.or_eq_true, beq_iff_eq] at hreads
    obtain ⟨hdead, hrest⟩ := hreads
    simp only [exec, execTxball, readReg_written hdead] at h ⊢
    by_cases hone : s.ball.dead.bits = 1
    · simp only [if_pos hone] at h ⊢
      exact next_of_usesNoFreeValue (usesNoFreeValue_transmitDeath s) h n
    · obtain ⟨hx, hd⟩ := hrest.resolve_left hone
      simp only [if_neg hone] at h ⊢
      exact next_of_usesNoFreeValue (usesNoFreeValue_transmitPosition hx hd) h n
  | inform m =>
    simp only [exec, execInform] at h ⊢
    split at h
    · next hm =>
      rw [if_pos hm]
      exact next_of_usesNoFreeValue (f := fun u => reply 1 (send (encodeMsg m) u)) (fun _ => rfl) h n
    · cases h
  | rxball =>
    exact next_of_usesNoFreeValue (usesNoFreeValue_answer eventCode (rxSteps_withFresh s)) h n
  | rdb f =>
    simp only [exec, execRdb] at h ⊢
    split at h
    · cases h
    · next fd hf =>
      have hw : s.ball.isWritten fd = true := by simpa [readsDefined, hf] using hreads
      exact next_of_usesNoFreeValue (usesNoFreeValue_answer id (readField_written_withFresh hw)) h n
  | wrb f v =>
    simp only [exec, execWrb] at h ⊢
    split at h
    · cases h
    · next fd _ =>
      split at h
      · next hv =>
        rw [if_pos hv]
        exact next_of_usesNoFreeValue (f := fun u => reply 0 { u with ball := writeField fd v u.ball }) (fun _ => rfl) h n
      · cases h

/-- Settles O45: receiving, writing a field and reset are the steps that touch what the invariant speaks of. -/
theorem stepKeepsTheRecordLegal : Obligations.StepKeepsTheRecordLegal := fun _ _ => step_keeps_inv

/-- Settles O55, by induction on the run: each of its steps keeps both invariants. -/
theorem bothRecordsStayLegalUnderAnyLink : Obligations.BothRecordsStayLegalUnderAnyLink := by
  intro link y z hrun ha hb
  induction hrun with
  | refl => exact ⟨ha, hb⟩
  | tail z w _ hstep ih =>
    obtain ⟨hza, hzb⟩ := ih
    exact systemStep_keeps_inv hstep hza hzb

end Sys2Proof.Proofs.BallState
end

section
/-! The transport and the stores (20_memory.md): the two queues, the commit of a received frame, and the perfect link. -/

namespace Sys2Proof.Proofs.Memory

open Sys2Proof Sys2Proof.Machine Sys2Proof.Proofs.BallState

/-! ### What only grows -/

/-- The receiver gives the host nothing by itself: the result comes after the receive steps (R231). -/
theorem rxStep_replies (s : State) : (rxStep s).2.replies = s.replies := by
  rcases rxStep_cases s with ⟨_, h⟩ | ⟨b, q, _, ⟨_, _, _, h⟩ | ⟨_, _, h⟩ | ⟨_, _, h⟩ | ⟨_, _, _, h⟩ | ⟨_, _, h⟩⟩ <;> rw [h]

theorem rxSteps_replies (s : State) : (rxSteps s).2.replies = s.replies :=
  rxSteps_keeps (P := fun t => t.replies = s.replies) (fun t ht => (rxStep_replies t).trans ht) rfl

/-- An operation that completes gives the host exactly one result (R98). -/
theorem exec_replies {i : Instr} {s t : State} (h : exec i s = .next t) : ∃ res, t.replies = s.replies ++ [.result res] := by
  rcases exec_cases h with ⟨res, n, rfl⟩ | ⟨_, res, q, n, rfl⟩ | ⟨_, rfl⟩ | ⟨f, v, fd, _, _, _, rfl⟩
  · exact ⟨res, rfl⟩
  · exact ⟨res, rfl⟩
  · exact ⟨_, by rw [reply_replies, rxSteps_replies]⟩
  · exact ⟨0, rfl⟩

/-- A position frame is appended to `TXQ`, coordinate byte first (R192). -/
theorem transmitPosition_txq (s : State) :
    ∃ x dx, (transmitPosition s).txq = s.txq ++ [encodeMsg (coordMsg x)] ++ [encodeMsg (dirMsg dx)] := by
  obtain ⟨x, dx, n, h⟩ := transmitPosition_sends s
  exact ⟨x, dx, by rw [h]; rfl⟩

theorem transmitPosition_txq_grows (s : State) : s.txq <+: (transmitPosition s).txq := by
  obtain ⟨x, dx, h⟩ := transmitPosition_txq s
  rw [h, List.append_assoc]
  exact List.prefix_append _ _

theorem transmitDeath_txq_grows (s : State) : s.txq <+: (transmitDeath s).txq := List.prefix_append _ _

/-- The operations that send only append (R58). -/
theorem transmits_txq_grows {i : Instr} {s t : State} (hi : transmits i) (h : exec i s = .next t) : s.txq <+: t.txq := by
  rcases hi with rfl | rfl | rfl | ⟨m, rfl⟩
  · obtain rfl := Host.Outcome.next.inj h
    exact transmitPosition_txq_grows s
  · obtain rfl := Host.Outcome.next.inj h
    exact transmitDeath_txq_grows s
  · obtain rfl := Host.Outcome.next.inj h
    obtain ⟨n, hn⟩ := readReg_state s.ball.dead s
    rw [hn]
    split
    · exact transmitDeath_txq_grows { s with fresh := n }
    · exact transmitPosition_txq_grows { s with fresh := n }
  · simp only [exec, execInform] at h
    split at h
    · obtain rfl := Host.Outcome.next.inj h
      exact List.prefix_append _ _
    · cases h

/-- Every operation leaves `TXQ` as it is or appends to it (R57, R58). -/
theorem exec_txq_grows {i : Instr} {s t : State} (h : exec i s = .next t) : s.txq <+: t.txq := by
  rcases exec_cases h with ⟨res, n, rfl⟩ | ⟨hi, _⟩ | ⟨_, rfl⟩ | ⟨f, v, fd, _, _, _, rfl⟩
  · exact List.prefix_refl _
  · exact transmits_txq_grows hi h
  · rw [reply_txq, rxSteps_txq]
  · exact List.prefix_refl _

/-! ### The commit -/

/-- The five fields that a position frame carries stand in `c` as in `b`; `DEAD` is free. -/
def sameFrameFields (b c : Ball) : Prop := c.x = b.x ∧ c.y = b.y ∧ c.dx = b.dx ∧ c.dy = b.dy ∧ c.onscr = b.onscr

/-- A receive step leaves the five fields alone, or it consumes the direction byte `m` and commits the latched coordinate (R227). -/
theorem rxStep_keepsFrame_or_commits (s : State) :
    sameFrameFields s.ball (rxStep s).2.ball ∨
    ∃ (m : Msg) (q : List Byte), 1 ≤ m.toNat ∧ m.toNat ≤ 3 ∧
      rxStep s = (.commit, { s with rxq := q, rxs := .awaitCoord, ball := commitBall s.rxc (dirOf m) s.ball }) := by
  rcases rxStep_cases s with ⟨_, h⟩ | ⟨b, q, _, ⟨_, _, _, h⟩ | ⟨_, _, h⟩ | ⟨_, _, h⟩ | ⟨_, h1, h3, h⟩ | ⟨_, _, h⟩⟩
  · exact .inl (h ▸ ⟨rfl, rfl, rfl, rfl, rfl⟩)
  · exact .inl (h ▸ ⟨rfl, rfl, rfl, rfl, rfl⟩)
  · exact .inl (h ▸ ⟨rfl, rfl, rfl, rfl, rfl⟩)
  · exact .inl (h ▸ ⟨rfl, rfl, rfl, rfl, rfl⟩)
  · exact .inr ⟨decodeByte b, q, h1, h3, h⟩
  · exact .inl (h ▸ ⟨rfl, rfl, rfl, rfl, rfl⟩)

/-- A receive step that reports PENDING only took a byte and latched a coordinate (R224). -/
theorem rxStep_pending_latches {s t : State} (h : rxStep s = (.pending, t)) :
    ∃ c q, t = { s with rxq := q, rxc := c, rxs := .awaitDir } := by
  rcases rxStep_cases s with ⟨_, hs⟩ | ⟨b, q, _, ⟨_, _, _, hs⟩ | ⟨_, _, hs⟩ | ⟨_, _, hs⟩ | ⟨_, _, _, hs⟩ | ⟨_, _, hs⟩⟩
  · cases hs.symm.trans h
  · obtain ⟨_, rfl⟩ := Prod.mk.inj (hs.symm.trans h)
    exact ⟨_, q, rfl⟩
  all_goals cases hs.symm.trans h

/-- The one or two receive steps of an `RXBALL` leave the five fields alone, or they end in a commit (R72, R233). -/
theorem rxSteps_keepsFrame_or_commits (s : State) :
    sameFrameFields s.ball (rxSteps s).2.ball ∨
    ∃ (m : Msg) (c : BitVec 3) (q : List Byte), 1 ≤ m.toNat ∧ m.toNat ≤ 3 ∧
      rxSteps s = (.commit, { s with rxc := c, rxq := q, rxs := .awaitCoord, ball := commitBall c (dirOf m) s.ball }) := by
  rcases h : rxStep s with ⟨e, t⟩
  by_cases he : e = .pending
  · subst he
    obtain ⟨c, q, rfl⟩ := rxStep_pending_latches h
    rw [rxSteps_pending h]
    rcases rxStep_keepsFrame_or_commits { s with rxq := q, rxc := c, rxs := .awaitDir } with hkeep | ⟨m, r, h1, h3, hcommit⟩
    · exact .inl hkeep
    · exact .inr ⟨m, c, r, h1, h3, by rw [hcommit]; rfl⟩
  · rw [rxSteps_single h he]
    rcases rxStep_keepsFrame_or_commits s with hkeep | ⟨m, q, h1, h3, hcommit⟩
    · exact .inl (by simpa only [h] using hkeep)
    · exact .inr ⟨m, s.rxc, q, h1, h3, h.symm.trans hcommit⟩

/-- The direction a frame brings is never the pattern 0b10 (R222, R227). -/
theorem dirOf_bits_legal : ∀ m : Msg, 1 ≤ m.toNat → m.toNat ≤ 3 → BitVec.ofInt 2 (dirOf m) ≠ 0b10#2 := by decide

/-! ### The host's own calls -/

/-- `has_byte_ready()` says whether `RXQ` is not empty (R59). -/
theorem hasByteReady_eq (s : State) : hasByteReady s = decide (s.rxq ≠ []) := by
  rcases h : s.rxq with _ | ⟨b, q⟩ <;> simp [hasByteReady, h]

/-- The host's `receive_byte()` on a queue that is not empty (R60, R63). -/
theorem hostTake_cons {s : State} {b : Byte} {q : List Byte} (h : s.rxq = b :: q) :
    hostTake s = .next { s with rxq := q, replies := s.replies ++ [.byte b] } := by
  simp only [hostTake, receiveByte_cons h]

/-- The host's `receive_byte()` on an empty queue (U8). -/
theorem hostTake_empty {s : State} (h : s.rxq = []) : hostTake s = .refused .hostTakeOnEmpty := by
  simp only [hostTake, receiveByte_empty h]

/-! ### Statements about one device -/

/-- Settles O37: the receive steps keep the five fields or end in a commit, which writes them all. -/
theorem commitIsAllOrNothing : Obligations.CommitIsAllOrNothing := by
  intro s t h
  obtain rfl := Host.Outcome.next.inj h
  rcases rxSteps_keepsFrame_or_commits s with hkeep | ⟨m, c, q, h1, h3, hcommit⟩
  · exact .inl hkeep
  · rw [hcommit]
    exact .inr ⟨rfl, rfl, ⟨_, dirOf_bits_legal m h1 h3, rfl⟩, rfl, rfl, rfl, rfl, rfl⟩

/-- Settles O50, by what a step can be: an operation grows both, the host's calls grow `replies`, the link and reset touch neither. -/
theorem outputsOnlyGrow : Obligations.OutputsOnlyGrow := by
  intro s t h
  rcases step_cases h with ⟨_, rfl⟩ | ⟨w, rest, i, _, _, hexec⟩ | ⟨rest, _, rfl⟩ | ⟨rest, b, q, _, _, rfl⟩ | ⟨rest, b, _, rfl⟩ |
    ⟨rest, _, rfl⟩
  · exact ⟨List.prefix_refl _, List.prefix_refl _⟩
  · obtain ⟨res, hres⟩ := exec_replies hexec
    exact ⟨exec_txq_grows (s := { s with inputs := rest }) hexec, hres ▸ List.prefix_append _ _⟩
  · exact ⟨List.prefix_refl _, List.prefix_append _ _⟩
  · exact ⟨List.prefix_refl _, List.prefix_append _ _⟩
  · exact ⟨List.prefix_refl _, List.prefix_refl _⟩
  · exact ⟨List.prefix_refl _, List.prefix_refl _⟩

/-- Settles O48: the waiting act selects its branch of `step`, and what the call answers is a fact about `RXQ`. -/
theorem hostCallsTheTransport : Obligations.HostCallsTheTransport := by
  refine ⟨fun s rest hi => ?poll, fun s rest b q hi hq => ?take, fun s rest hi hq => ?empty⟩
  case poll => simp only [step, hi, hostPoll, hasByteReady_eq]
  case take =>
    simp only [step, hi]
    exact hostTake_cons (s := { s with inputs := rest }) hq
  case empty =>
    simp only [step, hi]
    exact hostTake_empty (s := { s with inputs := rest }) hq

/-- Settles O49: a delivery selects the link's branch of `step`. -/
theorem linkOnlyAppends : Obligations.LinkOnlyAppends := by
  intro s rest b hi
  simp only [step, hi, linkDeliver]

/-! ### Two devices -/

/-- What a perfect link has delivered so far is a first part of what was sent (R62). -/
theorem deliveredSoFar_linkPerfect {sent got : List Byte} : deliveredSoFar linkPerfect sent got ↔ got <+: sent := by
  simp only [deliveredSoFar, linkPerfect, exists_eq_left]

/-- A host's act takes nothing back from its device's `TXQ`. -/
theorem actOn_txq_grows {i : Input} {s t : State} (h : actOn i s = .next t) : s.txq <+: t.txq :=
  (outputsOnlyGrow { s with inputs := i :: s.inputs } t h).1

/-- Every step of the two-device system with a perfect link keeps both deliveries first parts of what the peer has sent. -/
theorem systemStep_keeps_delivered {y z : System} (h : SystemStep linkPerfect y z) (hB : y.toB <+: y.a.txq)
    (hA : y.toA <+: y.b.txq) : z.toB <+: z.a.txq ∧ z.toA <+: z.b.txq := by
  cases h with
  | hostA i a' _ hact => exact ⟨hB.trans (actOn_txq_grows hact), hA⟩
  | hostB i b' _ hact => exact ⟨hB, hA.trans (actOn_txq_grows hact)⟩
  | linkToB g hlink => exact ⟨deliveredSoFar_linkPerfect.1 hlink, hA⟩
  | linkToA g hlink => exact ⟨hB, deliveredSoFar_linkPerfect.1 hlink⟩

/-- Settles O56, by induction on the run: a host's act only lengthens what was sent, a delivery is a first part of it by the link. -/
theorem perfectLinkDeliversWhatWasSent : Obligations.PerfectLinkDeliversWhatWasSent := by
  intro y z hrun hB hA
  induction hrun with
  | refl => exact ⟨hB, hA⟩
  | tail z w _ hstep ih =>
    obtain ⟨hzB, hzA⟩ := ih
    exact systemStep_keeps_delivered hstep hzB hzA

end Sys2Proof.Proofs.Memory
end

section
/-! The command word (30_encoding.md): the operation map as one row per operation number, decode against encode, the reserved
words, and the operands outside their domain. -/

namespace Sys2Proof.Proofs.Encoding

open Sys2Proof Sys2Proof.Machine

/-! ### The row a word selects -/

theorem selects_iff {r : OpRow} {w : Cmd} : r.selects w = true ↔ w &&& r.mask = r.matchBits := beq_iff_eq

/-- Where a row's mask is all ones, a word that selects the row has the row's own bits (R100). -/
theorem bits_of_selects {r : OpRow} {w : Cmd} (hw : r.selects w = true) {start len : Nat}
    (hmask : r.mask.extractLsb' start len = BitVec.allOnes len) :
    w.extractLsb' start len = r.matchBits.extractLsb' start len := by
  rw [← selects_iff.1 hw, BitVec.extractLsb'_and, hmask, BitVec.and_allOnes]

/-- Every row fixes the whole operation number (R95). -/
theorem mask_covers_op : ∀ r ∈ opRows, r.mask.extractLsb' 8 4 = BitVec.allOnes 4 := by decide

/-- No two rows have the same operation number (R100). -/
theorem row_ops_nodup : (opRows.map fun r => opOf r.matchBits).Nodup := by decide

theorem opOf_of_selects {r : OpRow} {w : Cmd} (hr : r ∈ opRows) (hw : r.selects w = true) : opOf w = opOf r.matchBits :=
  bits_of_selects hw (mask_covers_op r hr)

/-- The operation number alone tells the rows apart, so a word selects at most one (R95, R100). -/
theorem row_unique {r q : OpRow} {w : Cmd} (hr : r ∈ opRows) (hq : q ∈ opRows) (hrw : r.selects w = true)
    (hqw : q.selects w = true) : r = q :=
  List.inj_on_of_nodup_map row_ops_nodup hr hq ((opOf_of_selects hr hrw).symm.trans (opOf_of_selects hq hqw))

/-! ### The decoder -/

/-- A word that selects a row decodes to what that row builds from it. -/
theorem decode_of_selects {r : OpRow} {w : Cmd} (hr : r ∈ opRows) (hw : r.selects w = true) : decode w = .ok (r.build w) := by
  cases hfind : opRows.find? (fun r => r.selects w) with
  | none => exact absurd hw (List.find?_eq_none.1 hfind r hr)
  | some q =>
    obtain rfl := row_unique (List.mem_of_find?_eq_some hfind) hr (List.find?_some (p := fun r : OpRow => r.selects w) hfind) hw
    simp only [decode, hfind]

/-- A word that selects no row is rejected, by its operation number (R101, R102). -/
theorem decode_of_no_row {w : Cmd} (hw : ∀ r ∈ opRows, ¬ r.selects w = true) :
    decode w = if opOf w == 0x0#4 || opOf w == 0xF#4 then .error (.reservedOp w) else .error (.reservedArg w) := by
  simp only [decode, List.find?_eq_none.2 hw]

/-- The decoder accepts exactly the words that select a row (R100). -/
theorem decode_eq_ok_iff {w : Cmd} {i : Instr} : decode w = .ok i ↔ ∃ r ∈ opRows, r.selects w = true ∧ r.build w = i := by
  constructor
  · intro h
    by_cases hrow : ∃ r ∈ opRows, r.selects w = true
    · obtain ⟨r, hr, hw⟩ := hrow
      exact ⟨r, hr, hw, Except.ok.inj ((decode_of_selects hr hw).symm.trans h)⟩
    · rw [decode_of_no_row fun r hr hw => hrow ⟨r, hr, hw⟩] at h
      split at h <;> cases h
  · rintro ⟨r, hr, hw, rfl⟩
    exact decode_of_selects hr hw

/-! ### Operands and the words that carry them, by the formats of R96 -/

/-- The first of two operands stands above the second, in the formats S and W. -/
theorem fst_operand {n j k : Nat} (op : BitVec n) (x : BitVec j) (y : BitVec k) : (op ++ x ++ y).extractLsb' k j = x := by
  rw [BitVec.extractLsb'_append_eq_of_le (le_refl k), Nat.sub_self, BitVec.extractLsb'_append_eq_right]

/-- Every operation's word selects a row of the operation map that builds the operation again (R100). -/
theorem encode_selects_its_row (i : Instr) : ∃ r ∈ opRows, r.selects (encode i) = true ∧ r.build (encode i) = i := by
  cases i with
  | gfadd a b =>
    exact ⟨opRows[0], List.getElem_mem _, Laws.EncodesInItsRow.gfadd a b,
      congrArg₂ Instr.gfadd (fst_operand (n := 8) _ a b) BitVec.extractLsb'_append_eq_right⟩
  | gfmul a b =>
    exact ⟨opRows[1], List.getElem_mem _, Laws.EncodesInItsRow.gfmul a b,
      congrArg₂ Instr.gfmul (fst_operand (n := 8) _ a b) BitVec.extractLsb'_append_eq_right⟩
  | encode m =>
    exact ⟨opRows[2], List.getElem_mem _, Laws.EncodesInItsRow.encode m,
      congrArg Instr.encode BitVec.extractLsb'_append_eq_right⟩
  | synd b =>
    exact ⟨opRows[3], List.getElem_mem _, Laws.EncodesInItsRow.synd b, congrArg Instr.synd BitVec.extractLsb'_append_eq_right⟩
  | errpat s =>
    exact ⟨opRows[4], List.getElem_mem _, Laws.EncodesInItsRow.errpat s,
      congrArg Instr.errpat BitVec.extractLsb'_append_eq_right⟩
  | correct b =>
    exact ⟨opRows[5], List.getElem_mem _, Laws.EncodesInItsRow.correct b,
      congrArg Instr.correct BitVec.extractLsb'_append_eq_right⟩
  | decode b =>
    exact ⟨opRows[6], List.getElem_mem _, Laws.EncodesInItsRow.decode b,
      congrArg Instr.decode BitVec.extractLsb'_append_eq_right⟩
  | txpos => exact ⟨opRows[7], List.getElem_mem _, Laws.EncodesInItsRow.txpos, rfl⟩
  | txdeath => exact ⟨opRows[8], List.getElem_mem _, Laws.EncodesInItsRow.txdeath, rfl⟩
  | txball => exact ⟨opRows[9], List.getElem_mem _, Laws.EncodesInItsRow.txball, rfl⟩
  | inform m =>
    exact ⟨opRows[10], List.getElem_mem _, Laws.EncodesInItsRow.inform m,
      congrArg Instr.inform BitVec.extractLsb'_append_eq_right⟩
  | rxball => exact ⟨opRows[11], List.getElem_mem _, Laws.EncodesInItsRow.rxball, rfl⟩
  | rdb f =>
    exact ⟨opRows[12], List.getElem_mem _, Laws.EncodesInItsRow.rdb f, congrArg Instr.rdb BitVec.extractLsb'_append_eq_right⟩
  | wrb f v =>
    exact ⟨opRows[13], List.getElem_mem _, Laws.EncodesInItsRow.wrb f v,
      congrArg₂ Instr.wrb (fst_operand (n := 5) _ f v) BitVec.extractLsb'_append_eq_right⟩

/-- A word is its fixed part and its one operand, in the formats M, B and R. -/
theorem word_of_operand (n k : Nat) {w : BitVec (n + k)} {op : BitVec n} (hop : w.extractLsb' k n = op) :
    op ++ w.extractLsb' 0 k = w := by
  rw [← hop, BitVec.extractLsb'_append_extractLsb']

/-- A word is its fixed part and its two operands, in the formats S and W. -/
theorem word_of_operands (n j k : Nat) {w : BitVec (n + j + k)} {op : BitVec n} (hop : w.extractLsb' (k + j) n = op) :
    op ++ w.extractLsb' k j ++ w.extractLsb' 0 k = w := by
  rw [← hop, BitVec.extractLsb'_append_extractLsb'_eq_extractLsb' rfl, BitVec.extractLsb'_append_extractLsb']

/-- A word is all fixed part, in the format N. -/
theorem word_of_no_operand {w op : Cmd} (hop : w.extractLsb' 0 12 = op) : op = w :=
  hop.symm.trans BitVec.extractLsb'_eq_self

/-- What a row builds from a word that selects it has that very word: the row's mask fixes every bit that is no operand (R102). -/
theorem encode_build_of_selects {w : Cmd} : ∀ r ∈ opRows, r.selects w = true → encode (r.build w) = w := by
  simp only [opRows, List.forall_mem_cons]
  refine ⟨fun h => ?gfadd, fun h => ?gfmul, fun h => ?encode, fun h => ?synd, fun h => ?errpat, fun h => ?correct,
    fun h => ?decode, fun h => ?txpos, fun h => ?txdeath, fun h => ?txball, fun h => ?inform, fun h => ?rxball, fun h => ?rdb,
    fun h => ?wrb, List.forall_mem_nil _⟩
  case gfadd | gfmul => exact word_of_operands 8 2 2 (bits_of_selects h rfl)
  case encode | errpat | inform => exact word_of_operand 8 4 (bits_of_selects h rfl)
  case synd | correct | decode => exact word_of_operand 4 8 (bits_of_selects h rfl)
  case txpos | txdeath | txball | rxball => exact word_of_no_operand (bits_of_selects h rfl)
  case rdb => exact word_of_operand 9 3 (bits_of_selects h rfl)
  case wrb => exact word_of_operands 5 3 4 (bits_of_selects h rfl)

/-! ### Rejected words -/

/-- Every row with one of the operation numbers `ops` fixes the `len` bits from `start` on to 0: they are reserved (R96). -/
abbrev reserves (ops : List (BitVec 4)) (start len : Nat) : Prop :=
  ∀ r ∈ opRows, opOf r.matchBits ∈ ops →
    r.mask.extractLsb' start len = BitVec.allOnes len ∧ r.matchBits.extractLsb' start len = 0#len

/-- A word whose operation number no row has selects no row. -/
theorem not_selects_of_op {w : Cmd} (hop : ∀ r ∈ opRows, opOf r.matchBits ≠ opOf w) :
    ∀ r ∈ opRows, ¬ r.selects w = true :=
  fun r hr hw => hop r hr (opOf_of_selects hr hw).symm

/-- A word with a 1 in a bit that its operation number reserves selects no row (R102). -/
theorem not_selects_of_reserved {ops : List (BitVec 4)} {start len : Nat} (hres : reserves ops start len) {w : Cmd}
    (hop : opOf w ∈ ops) (hbits : w.extractLsb' start len ≠ 0#len) : ∀ r ∈ opRows, ¬ r.selects w = true := by
  intro r hr hw
  obtain ⟨hmask, hzero⟩ := hres r hr (opOf_of_selects hr hw ▸ hop)
  exact hbits ((bits_of_selects hw hmask).trans hzero)

/-- A valid operation number with a 1 in a reserved bit is rejected as a reserved argument (R102). -/
theorem decode_of_reserved {ops : List (BitVec 4)} {start len : Nat} (hres : reserves ops start len)
    (hvalid : 0x0#4 ∉ ops ∧ 0xF#4 ∉ ops) {w : Cmd} (hop : opOf w ∈ ops) (hbits : w.extractLsb' start len ≠ 0#len) :
    decode w = .error (.reservedArg w) := by
  obtain ⟨h0, hF⟩ := hvalid
  rw [decode_of_no_row (not_selects_of_reserved hres hop hbits), if_neg]
  rw [Bool.or_eq_true, beq_iff_eq, beq_iff_eq]
  rintro (h | h)
  · exact h0 (h ▸ hop)
  · exact hF (h ▸ hop)

/-- Operation numbers 0x0 and 0xF stand in no row (R101). -/
theorem decode_of_reserved_op {w : Cmd} (hop : opOf w = 0x0#4 ∨ opOf w = 0xF#4) : decode w = .error (.reservedOp w) := by
  have hnone : ∀ r ∈ opRows, ¬ r.selects w = true := by
    apply not_selects_of_op
    rcases hop with h | h <;> rw [h] <;> decide
  rw [decode_of_no_row hnone, if_pos]
  simpa only [Bool.or_eq_true, beq_iff_eq] using hop

/-- A step on a rejected word stops with the refusal that names it. -/
theorem step_of_decode_error {s : State} {w : Cmd} {rest : List Input} {e : DecodeError} (hinputs : s.inputs = .command w :: rest)
    (hdecode : decode w = .error e) : step s = .refused (refusalOf e) := by
  simp only [step, hinputs, hdecode]

/-! ### Operands outside their domain -/

/-- An operation whose operands are in their domain completes, in every state (R103). -/
theorem exec_of_wellFormed {i : Instr} (s : State) (hi : wellFormed i = true) : ∃ t, exec i s = .next t := by
  cases i with
  | gfadd _ _ | gfmul _ _ | encode _ | synd _ | errpat _ | correct _ | decode _ | txpos | txdeath | txball | rxball =>
    exact ⟨_, rfl⟩
  | inform m => exact ⟨_, if_pos hi⟩
  | rdb f =>
    obtain ⟨fd, hfd⟩ := Option.isSome_iff_exists.1 hi
    simp only [exec, execRdb, hfd]
    exact ⟨_, rfl⟩
  | wrb f v =>
    obtain ⟨fd, hfd, hv⟩ := (Option.any_eq_true _ _).1 hi
    simp only [exec, execWrb, hfd, if_pos hv]
    exact ⟨_, rfl⟩

/-- An operation whose operands lie outside their domain is refused, in every state (R103). -/
theorem exec_of_not_wellFormed {i : Instr} (s : State) (hi : wellFormed i = false) : ∃ r, exec i s = .refused r := by
  cases i with
  | gfadd _ _ | gfmul _ _ | encode _ | synd _ | errpat _ | correct _ | decode _ | txpos | txdeath | txball | rxball => cases hi
  | inform m => exact ⟨_, if_neg (Bool.eq_false_iff.1 hi)⟩
  | rdb f =>
    have hf : fieldOf f = none := by simpa [wellFormed, wellFormedAt] using hi
    simp only [exec, execRdb, hf]
    exact ⟨_, rfl⟩
  | wrb f v =>
    cases hf : fieldOf f with
    | none =>
      simp only [exec, execWrb, hf]
      exact ⟨_, rfl⟩
    | some fd =>
      have hv : ¬ legalValue Config.height fd v = true := by simpa [wellFormed, wellFormedAt, hf] using hi
      simp only [exec, execWrb, hf, if_neg hv]
      exact ⟨_, rfl⟩

/-! ### The statements -/

/-- Settles O1: an operation's word selects a row that builds the operation, and the decoder takes it. -/
theorem decodeOfEncodeIsTheOperation : Obligations.DecodeOfEncodeIsTheOperation :=
  fun i => decode_eq_ok_iff.2 (encode_selects_its_row i)

/-- Settles O2: the word selects a row, whose mask fixes all bits of it that are no operand. -/
theorem onlyItsOwnWordNamesAnOperation : Obligations.OnlyItsOwnWordNamesAnOperation := by
  intro w i h
  obtain ⟨r, hr, hw, rfl⟩ := decode_eq_ok_iff.1 h
  exact encode_build_of_selects r hr hw

/-- Settles O3: the decoder rejects the word by its operation number. -/
theorem reservedOperationNumbersRefused : Obligations.ReservedOperationNumbersRefused :=
  fun _ _ _ hinputs hop => step_of_decode_error hinputs (decode_of_reserved_op hop)

/-- Settles O4, by the four classes of formats with reserved bits: S and M, N, R, W. -/
theorem reservedArgumentBitsRefused : Obligations.ReservedArgumentBitsRefused := by
  intro s w rest hinputs hbad
  refine step_of_decode_error hinputs (e := .reservedArg w) ?_
  rcases hbad with ⟨hop, hbits⟩ | ⟨hop, hbits⟩ | ⟨hop, hbits⟩ | ⟨hop, hbits⟩
  · exact decode_of_reserved (by decide) (by decide) hop hbits
  · exact decode_of_reserved (by decide) (by decide) hop hbits
  · exact decode_of_reserved (by decide) (by decide) (List.mem_singleton.2 hop) hbits
  · exact decode_of_reserved (by decide) (by decide) (List.mem_singleton.2 hop) hbits

/-- Settles O44: with its operands in their domain an operation completes, outside it is refused, and no outcome is both. -/
theorem refusedExactlyOutsideTheDomain : Obligations.RefusedExactlyOutsideTheDomain := by
  intro i s
  cases hi : wellFormed i with
  | true =>
    obtain ⟨t, ht⟩ := exec_of_wellFormed s hi
    simp [ht]
  | false =>
    obtain ⟨r, hr⟩ := exec_of_not_wellFormed s hi
    simp [hr]

/-- Settles O5: each of the words is the encoder's word for its operation. -/
theorem wordsOfTheSpecDecode : Obligations.WordsOfTheSpecDecode :=
  have decode_encode := decodeOfEncodeIsTheOperation
  ⟨decode_encode (.gfadd 2 3), decode_encode (.gfmul 3 3), decode_encode (.encode 6), decode_encode (.synd 0x5D),
    decode_encode (.errpat 11), decode_encode (.correct 0x5D), decode_encode (.decode 0x5D), decode_encode .txpos,
    decode_encode .txdeath, decode_encode .txball, decode_encode (.inform 2), decode_encode .rxball, decode_encode (.rdb 2),
    decode_encode (.wrb 2 3)⟩

/-- Settles O12, by evaluating the encoder on the 16 messages. -/
theorem codewordTable : Obligations.CodewordTable := by
  unfold Obligations.CodewordTable
  decide

end Sys2Proof.Proofs.Encoding
end

section
/-! Field arithmetic (40_field_arithmetic.md): the word of an operation on two symbols, the product of two polynomials, and the laws
of the field. -/

namespace Sys2Proof.Proofs.FieldArithmetic

open Sys2Proof Sys2Proof.Machine

/-! ### The command word -/

/-- Concatenation as a number: the high part stands above the low part's bits. -/
theorem toNat_append_eq_mul_add {n m : Nat} (x : BitVec n) (y : BitVec m) : (x ++ y).toNat = x.toNat * 2 ^ m + y.toNat := by
  rw [BitVec.toNat_append, ← Nat.shiftLeft_add_eq_or_of_lt y.isLt, Nat.shiftLeft_eq]

/-- A word of format S as a sum: the fixed part, and the index `4a + b` (R96). -/
theorem symbols_word_eq_add (op : Byte) (a b : Sym) :
    (op ++ a ++ b : Cmd) = 16#12 * op.setWidth 12 + 4#12 * a.setWidth 12 + b.setWidth 12 := by
  apply BitVec.eq_of_toNat_eq
  have hop := op.isLt
  have ha := a.isLt
  have hb := b.isLt
  have hword : (op ++ a ++ b : BitVec (8 + 2 + 2)).toNat = (op.toNat * 2 ^ 2 + a.toNat) * 2 ^ 2 + b.toNat := by
    rw [toNat_append_eq_mul_add, toNat_append_eq_mul_add]
  simp only [hword, BitVec.toNat_add, BitVec.toNat_mul, BitVec.toNat_setWidth, BitVec.toNat_ofNat]
  omega

/-! ### The product -/

/-- The product of two polynomials over GF(2), reduced with x² = x + 1: the coefficient of x² is added to both others (R123). -/
def polyProduct (a b : Sym) : Sym :=
  let high := ((a.getLsbD 1 && b.getLsbD 0) ^^ (a.getLsbD 0 && b.getLsbD 1)) ^^ (a.getLsbD 1 && b.getLsbD 1)
  let low := (a.getLsbD 0 && b.getLsbD 0) ^^ (a.getLsbD 1 && b.getLsbD 1)
  BitVec.ofBool high ++ BitVec.ofBool low

/-- The table `MUL` holds the products of polynomials, on all 16 pairs (R123). -/
theorem gfmul_eq_polyProduct : ∀ a b : Sym, gfmul a b = polyProduct a b := by decide

/-! ### The laws -/

theorem gfadd_comm (a b : Sym) : gfadd a b = gfadd b a := by
  rw [gfadd_eq_xor, gfadd_eq_xor, BitVec.xor_comm]

theorem gfadd_assoc (a b c : Sym) : gfadd (gfadd a b) c = gfadd a (gfadd b c) := by
  simp only [gfadd_eq_xor, BitVec.xor_assoc]

theorem gfadd_zero (a : Sym) : gfadd a 0 = a := (gfadd_eq_xor a 0).trans BitVec.xor_zero

/-- Every element is its own additive inverse (R125). -/
theorem gfadd_self (a : Sym) : gfadd a a = 0 := (gfadd_eq_xor a a).trans BitVec.xor_self

theorem gfmul_comm : ∀ a b : Sym, gfmul a b = gfmul b a := by decide

theorem gfmul_assoc : ∀ a b c : Sym, gfmul (gfmul a b) c = gfmul a (gfmul b c) := by decide

theorem gfmul_one : ∀ a : Sym, gfmul a 1 = a := by decide

theorem gfmul_zero : ∀ a : Sym, gfmul a 0 = 0 := by decide

/-- Multiplication distributes over addition, in its second operand. -/
theorem gfmul_gfadd (a b c : Sym) : gfmul a (gfadd b c) = gfadd (gfmul a b) (gfmul a c) := by
  rw [gfadd_eq_xor, gfadd_eq_xor, gfmul_comm, gfmul_xor_left, gfmul_comm b, gfmul_comm c]

/-- The three non-zero elements are cube roots of 1. -/
theorem gfmul_cube : ∀ a : Sym, a ≠ 0 → gfmul a (gfmul a a) = 1 := by decide

/-- No zero divisors: the square of a non-zero `a` is its inverse, and takes `a` away from a product that is 0. -/
theorem eq_zero_or_eq_zero_of_gfmul_eq_zero {a b : Sym} (h : gfmul a b = 0) : a = 0 ∨ b = 0 := by
  refine or_iff_not_imp_left.2 fun ha => ?_
  calc b = gfmul b (gfmul a (gfmul a a)) := by rw [gfmul_cube a ha, gfmul_one]
    _ = gfmul (gfmul a a) (gfmul a b) := by rw [← gfmul_assoc, gfmul_comm, gfmul_comm b]
    _ = 0 := by rw [h, gfmul_zero]

/-! ### The statements -/

/-- Settles O8: the table entry is the exclusive or, and the operation answers with it. -/
theorem gfaddGivesExclusiveOr : Obligations.GfaddGivesExclusiveOr := by
  intro a b s
  refine ⟨symbols_word_eq_add 0x10 a b, gfadd_eq_xor a b, ?_⟩
  rw [← gfadd_eq_xor]
  rfl

/-- Settles O9: the table entry is the product of the polynomials, and the operation answers with it. -/
theorem gfmulGivesPolynomialProduct : Obligations.GfmulGivesPolynomialProduct := by
  intro a b s
  change encode (.gfmul a b) = _ ∧ gfmul a b = polyProduct a b ∧
    exec (.gfmul a b) s = .next (reply ((polyProduct a b).setWidth 8) s)
  rw [← gfmul_eq_polyProduct]
  exact ⟨symbols_word_eq_add 0x20 a b, rfl, rfl⟩

/-- Settles O10, law by law; what it says of single elements is read off the two tables. -/
theorem fieldLaws : Obligations.FieldLaws := by
  refine ⟨fun a b => ⟨gfadd_comm a b, gfmul_comm a b⟩,
    fun a b c => ⟨gfadd_assoc a b c, gfmul_assoc a b c, gfmul_gfadd a b c⟩,
    fun a => ⟨gfadd_zero a, gfmul_one a, gfmul_zero a, gfadd_self a⟩, ?inverses,
    fun _ _ => eq_zero_or_eq_zero_of_gfmul_eq_zero, gfmul_cube, ?squares, ?sums⟩
  case inverses => decide
  case squares => decide
  case sums => decide

end Sys2Proof.Proofs.FieldArithmetic
end

section
/-! The encoder (41_encoder.md): a codeword as the values of the polynomial `a + b·t` at the four elements, its linearity, and the
weights of the codewords by the polynomial's roots. -/

namespace Sys2Proof.Proofs.Encoder

open Sys2Proof Sys2Proof.Machine Sys2Proof.Proofs.Encoding Sys2Proof.Proofs.FieldArithmetic

/-! ### The command word -/

/-- A word of one operand as a sum: the fixed part above the operand's bits, and the operand (R96). -/
theorem append_eq_shiftLeft_add {n k : Nat} (op : BitVec n) (x : BitVec k) :
    op ++ x = op.setWidth (n + k) <<< k + x.setWidth (n + k) := by
  have hsum : op.toNat * 2 ^ k + x.toNat < 2 ^ (n + k) := by
    rw [← toNat_append_eq_mul_add]
    exact (op ++ x).isLt
  apply BitVec.eq_of_toNat_eq
  rw [toNat_append_eq_mul_add, BitVec.toNat_add, BitVec.toNat_shiftLeft,
    BitVec.toNat_setWidth_of_le (Nat.le_add_right n k), BitVec.toNat_setWidth_of_le (Nat.le_add_left k n), Nat.shiftLeft_eq,
    Nat.mod_add_mod, Nat.mod_eq_of_lt hsum]

/-! ### Symbols of messages and bytes -/

theorem msgFst_pairSyms (a b : Sym) : msgFst (pairSyms a b) = a :=
  (BitVec.extractLsb'_append_eq_of_le (le_refl 2)).trans BitVec.extractLsb'_eq_self

theorem msgSnd_pairSyms (a b : Sym) : msgSnd (pairSyms a b) = b := BitVec.extractLsb'_append_eq_right

theorem pairSyms_msgFst_msgSnd (m : Msg) : pairSyms (msgFst m) (msgSnd m) = m := BitVec.extractLsb'_append_extractLsb'

theorem msgFst_xor (m n : Msg) : msgFst (m ^^^ n) = msgFst m ^^^ msgFst n := BitVec.extractLsb'_xor

theorem msgSnd_xor (m n : Msg) : msgSnd (m ^^^ n) = msgSnd m ^^^ msgSnd n := BitVec.extractLsb'_xor

/-- A message is 0 exactly if both its symbols are. -/
theorem msg_eq_zero_iff {m : Msg} : m = 0 ↔ msgFst m = 0 ∧ msgSnd m = 0 := by
  refine ⟨by rintro rfl; exact ⟨rfl, rfl⟩, fun ⟨hfst, hsnd⟩ => ?_⟩
  rw [← pairSyms_msgFst_msgSnd m, hfst, hsnd]
  rfl

/-- Packing and unpacking four symbols (R82). -/
theorem sym_pack (f : Nat → Sym) (j : Sym) : sym (pack (f 0) (f 1) (f 2) (f 3)) j.toNat = f j.toNat := by
  have above {n : Nat} (x : BitVec n) (y : Sym) (start : Nat) : (x ++ y).extractLsb' (start + 2) 2 = x.extractLsb' start 2 :=
    BitVec.extractLsb'_append_eq_of_le (Nat.le_add_left 2 start)
  have hj := j.isLt
  interval_cases j.toNat
  · exact (above _ (f 3) 4).trans ((above _ (f 2) 2).trans ((above (f 0) (f 1) 0).trans BitVec.extractLsb'_eq_self))
  · exact (above _ (f 3) 2).trans (fst_operand (f 0) (f 1) (f 2))
  · exact fst_operand (f 0 ++ f 1) (f 2) (f 3)
  · exact BitVec.extractLsb'_append_eq_right

theorem pack_syms (c : Byte) : pack (sym c 0) (sym c 1) (sym c 2) (sym c 3) = c := by
  have h01 : sym c 0 ++ sym c 1 = c.extractLsb' 4 4 := BitVec.extractLsb'_append_extractLsb'_eq_extractLsb' rfl
  have h012 : sym c 0 ++ sym c 1 ++ sym c 2 = c.extractLsb' 2 6 := by
    rw [h01]
    exact BitVec.extractLsb'_append_extractLsb'_eq_extractLsb' rfl
  rw [pack, h012]
  exact BitVec.extractLsb'_append_extractLsb'

/-- A byte is its four symbols. -/
theorem eq_of_forall_sym {b c : Byte} (h : ∀ j : Sym, sym b j.toNat = sym c j.toNat) : b = c := by
  rw [← pack_syms b, ← pack_syms c]
  exact congr (congr (congr (congrArg pack (h 0)) (h 1)) (h 2)) (h 3)

/-- The weight is the number of symbol positions that do not hold 0 (R19). -/
theorem symWeight_eq_card (c : Byte) : symWeight c = Finset.card {j : Sym | sym c j.toNat ≠ 0} := by
  have huniv : (Finset.univ : Finset Sym) = {0, 1, 2, 3} := by decide
  rw [Finset.card_filter, huniv]
  simp [symWeight, add_assoc]

/-! ### The codeword as values of a polynomial -/

theorem gfmul_xor (a b c : Sym) : gfmul a (b ^^^ c) = gfmul a b ^^^ gfmul a c := by
  rw [gfmul_comm, gfmul_xor_left, gfmul_comm b, gfmul_comm c]

theorem poly_at_zero (a b : Sym) : a ^^^ gfmul b 0 = a := by
  rw [gfmul_zero]
  exact BitVec.xor_zero

theorem poly_of_constant (a t : Sym) : a ^^^ gfmul 0 t = a := by
  rw [gfmul_comm, poly_at_zero]

/-- Column `j` of the generator matrix is `[1, j]` (R141). -/
theorem genEntry_column : ∀ j : Sym, genEntry 0 j.toNat = 1 ∧ genEntry 1 j.toNat = j := by decide

/-- Codeword symbol `j` is the value of `a + b·t` at `t = j` (R141). -/
theorem codeSym_eq (a b j : Sym) : codeSym a b j.toNat = a ^^^ gfmul b j := by
  obtain ⟨hone, hj⟩ := genEntry_column j
  rw [codeSym, hone, hj, gfmul_one, gfadd_eq_xor]

theorem sym_encodeMsg (m : Msg) (j : Sym) : sym (encodeMsg m) j.toNat = msgFst m ^^^ gfmul (msgSnd m) j :=
  (sym_pack (codeSym (msgFst m) (msgSnd m)) j).trans (codeSym_eq _ _ j)

/-- The four symbols in closed form (R145). -/
theorem encodeMsg_eq_pack (m : Msg) :
    encodeMsg m = pack (msgFst m) (msgFst m ^^^ msgSnd m) (msgFst m ^^^ gfmul (msgSnd m) 2) (msgFst m ^^^ gfmul (msgSnd m) 3) := by
  have hsym := codeSym_eq (msgFst m) (msgSnd m)
  have h0 := (hsym 0).trans (poly_at_zero _ _)
  have h1 := hsym 1
  rw [gfmul_one] at h1
  exact congr (congr (congr (congrArg pack h0) h1) (hsym 2)) (hsym 3)

/-! ### Linearity -/

theorem encodeMsg_xor (m n : Msg) : encodeMsg (m ^^^ n) = encodeMsg m ^^^ encodeMsg n := by
  refine eq_of_forall_sym fun j => ?_
  simp only [sym_xor, sym_encodeMsg, msgFst_xor, msgSnd_xor, gfmul_xor_left]
  ac_rfl

theorem sym_encodeMsg_gfmul (c : Sym) (m : Msg) (j : Sym) :
    sym (encodeMsg (pairSyms (gfmul c (msgFst m)) (gfmul c (msgSnd m)))) j.toNat = gfmul c (sym (encodeMsg m) j.toNat) := by
  rw [sym_encodeMsg, sym_encodeMsg, msgFst_pairSyms, msgSnd_pairSyms, gfmul_assoc, gfmul_xor]

theorem encodeMsg_zero : encodeMsg 0 = 0 := by
  have h := encodeMsg_xor 0 0
  rwa [BitVec.xor_self, BitVec.xor_self] at h

/-! ### Weights and distance -/

/-- For `b ≠ 0` the polynomial `a + b·t` has exactly one root; as `b³ = 1`, it is `b²·a`. -/
theorem poly_eq_zero_iff {a b : Sym} (hb : b ≠ 0) (t : Sym) : a ^^^ gfmul b t = 0 ↔ t = gfmul (gfmul b b) a := by
  refine BitVec.xor_eq_zero_iff.trans ⟨?_, ?_⟩
  · rintro rfl
    rw [← gfmul_assoc, gfmul_comm (gfmul b b) b, gfmul_cube b hb, gfmul_comm, gfmul_one]
  · rintro rfl
    rw [← gfmul_assoc, gfmul_cube b hb, gfmul_comm, gfmul_one]

theorem card_sym : (Finset.univ : Finset Sym).card = 4 := by decide

/-- With `b ≠ 0` every codeword symbol but the one at the root is non-zero (R146). -/
theorem symWeight_encodeMsg_of_msgSnd_ne {m : Msg} (hb : msgSnd m ≠ 0) : symWeight (encodeMsg m) = 3 := by
  simp only [symWeight_eq_card, sym_encodeMsg, ne_eq, poly_eq_zero_iff hb]
  rw [Finset.filter_ne', Finset.card_erase_of_mem (Finset.mem_univ _), card_sym]

/-- With `b = 0` and `a ≠ 0` every codeword symbol is `a` (R146). -/
theorem symWeight_encodeMsg_of_msgSnd_eq {m : Msg} (ha : msgFst m ≠ 0) (hb : msgSnd m = 0) : symWeight (encodeMsg m) = 4 := by
  have hsym : ∀ j : Sym, sym (encodeMsg m) j.toNat ≠ 0 := by
    intro j
    rwa [sym_encodeMsg, hb, poly_of_constant]
  rw [symWeight_eq_card, Finset.filter_true_of_mem fun j _ => hsym j, card_sym]

/-- The weight of every codeword (R146). -/
theorem symWeight_encodeMsg (m : Msg) :
    symWeight (encodeMsg m) = if msgSnd m ≠ 0 then 3 else if msgFst m ≠ 0 then 4 else 0 := by
  split
  next hb => exact symWeight_encodeMsg_of_msgSnd_ne hb
  next hb =>
    split
    next ha => exact symWeight_encodeMsg_of_msgSnd_eq ha (not_not.1 hb)
    next ha =>
      rw [msg_eq_zero_iff.2 ⟨not_not.1 ha, not_not.1 hb⟩, encodeMsg_zero]
      rfl

/-- The distance of two codewords is the weight of the codeword of the messages' difference. -/
theorem symDist_encodeMsg (m n : Msg) : symDist (encodeMsg m) (encodeMsg n) = symWeight (encodeMsg (m ^^^ n)) := by
  rw [symDist, encodeMsg_xor]

theorem three_le_symWeight_encodeMsg {m : Msg} (hm : m ≠ 0) : 3 ≤ symWeight (encodeMsg m) := by
  rw [symWeight_encodeMsg]
  split
  next => exact le_refl 3
  next hb =>
    have ha : msgFst m ≠ 0 := fun ha => hm (msg_eq_zero_iff.2 ⟨ha, not_not.1 hb⟩)
    rw [if_pos ha]
    decide

/-- Different messages have codewords that differ in at least three symbols (R146). -/
theorem three_le_symDist_encodeMsg {m n : Msg} (h : m ≠ n) : 3 ≤ symDist (encodeMsg m) (encodeMsg n) := by
  rw [symDist_encodeMsg]
  exact three_le_symWeight_encodeMsg (mt BitVec.xor_eq_zero_iff.1 h)

theorem symDist_self (c : Byte) : symDist c c = 0 := by
  rw [symDist, BitVec.xor_self]
  rfl

/-- The encoder is injective, as codewords of different messages stand apart. -/
theorem encodeMsg_injective : Function.Injective encodeMsg := by
  intro m n h
  by_contra hne
  have hdist := three_le_symDist_encodeMsg hne
  rw [h, symDist_self] at hdist
  omega

/-! ### The statements -/

/-- `ENCODE` answers with the encoder's byte and does nothing else (R144). -/
theorem exec_encode (m : Msg) (s : State) : exec (.encode m) s = .next (reply (encodeMsg m) s) := rfl

/-- Settles O11: the word is a sum of its two parts, and the answer is the encoder's byte in closed form. -/
theorem encodeGivesTheCodeword : Obligations.EncodeGivesTheCodeword := by
  intro m s
  refine ⟨append_eq_shiftLeft_add 0x30#8 m, ?_⟩
  rw [exec_encode, encodeMsg_eq_pack]
  rfl

/-- Settles O13: linearity symbol by symbol, distance and injectivity from the weights, and the counts from the weight formula. -/
theorem encoderIsLinearWithDistanceThree : Obligations.EncoderIsLinearWithDistanceThree := by
  refine ⟨encodeMsg_xor, ?scaling, fun _ _ h => encodeMsg_injective h, fun _ _ => three_le_symDist_encodeMsg, ?three, ?four,
    encodeMsg_zero⟩
  case scaling =>
    intro c m j hj
    have position_is_symbol : ∀ j ∈ [0, 1, 2, 3], ∃ t : Sym, t.toNat = j := by decide
    obtain ⟨t, rfl⟩ := position_is_symbol j hj
    exact sym_encodeMsg_gfmul c m t
  case three =>
    simp only [symWeight_encodeMsg]
    decide
  case four =>
    simp only [symWeight_encodeMsg]
    decide

end Sys2Proof.Proofs.Encoder
end

section
/-! The decoder (42_decoder.md): the syndrome as a linear map with the codewords as its kernel, the error patterns as the least
bytes of their syndromes by the distance of the code, and correction and decoding of a codeword plus a corruption. -/

namespace Sys2Proof.Proofs.Decoder

open Sys2Proof Sys2Proof.Machine Sys2Proof.Proofs.FieldArithmetic Sys2Proof.Proofs.Encoder

/-! ### The syndrome -/

/-- The first syndrome symbol is the sum of the symbols (R163). -/
theorem syndSym_zero (b : Byte) : syndSym b 0 = sym b 0 ^^^ sym b 1 ^^^ sym b 2 ^^^ sym b 3 := by
  change gfadd (gfadd (gfmul (sym b 0) 1) (gfmul (sym b 1) 1)) (gfadd (gfmul (sym b 2) 1) (gfmul (sym b 3) 1)) = _
  simp only [gfadd_eq_xor, gfmul_one, BitVec.xor_assoc]

/-- The second syndrome symbol is the sum of symbol `i` times `i` (R163). -/
theorem syndSym_one (b : Byte) : syndSym b 1 = sym b 1 ^^^ gfmul 2 (sym b 2) ^^^ gfmul 3 (sym b 3) := by
  change gfadd (gfadd (gfmul (sym b 0) 0) (gfmul (sym b 1) 1)) (gfadd (gfmul (sym b 2) 2) (gfmul (sym b 3) 3)) = _
  rw [gfmul_zero, gfadd_comm 0, gfadd_zero, gfmul_one, gfmul_comm 2, gfmul_comm 3]
  simp only [gfadd_eq_xor, BitVec.xor_assoc]

/-- The syndrome from the four symbols, given as a function of the position. -/
theorem syndrome_of_syms {b : Byte} {f : Sym → Sym} (h : ∀ j : Sym, sym b j.toNat = f j) :
    syndrome b = pairSyms (f 0 ^^^ f 1 ^^^ f 2 ^^^ f 3) (f 1 ^^^ gfmul 2 (f 2) ^^^ gfmul 3 (f 3)) := by
  rw [syndrome, syndSym_zero, syndSym_one, ← h 0, ← h 1, ← h 2, ← h 3]
  rfl

theorem syndSym_xor (a b : Byte) (j : Nat) : syndSym (a ^^^ b) j = syndSym a j ^^^ syndSym b j := by
  simp only [syndSym, gfadd_eq_xor, sym_xor, gfmul_xor_left]
  ac_rfl

/-- The syndrome is linear (R162). -/
theorem syndrome_xor (a b : Byte) : syndrome (a ^^^ b) = syndrome a ^^^ syndrome b := by
  simp only [syndrome, syndSym_xor, pairSyms_xor]

theorem syndrome_eq_zero_iff {b : Byte} : syndrome b = 0 ↔ syndSym b 0 = 0 ∧ syndSym b 1 = 0 := by
  have hpair := msg_eq_zero_iff (m := syndrome b)
  rwa [syndrome, msgFst_pairSyms, msgSnd_pairSyms] at hpair

/-! ### The codewords are the kernel of the syndrome -/

/-- The values of a polynomial `a + b·t` at the four elements add up to 0, and so do the values times their `t` (R126). -/
theorem sum_poly_eq_zero : ∀ a b : Sym,
    (a ^^^ gfmul b 0) ^^^ (a ^^^ gfmul b 1) ^^^ (a ^^^ gfmul b 2) ^^^ (a ^^^ gfmul b 3) = 0 ∧
    (a ^^^ gfmul b 1) ^^^ gfmul 2 (a ^^^ gfmul b 2) ^^^ gfmul 3 (a ^^^ gfmul b 3) = 0 := by decide

/-- Codewords have the syndrome 0 (R162). -/
theorem syndrome_encodeMsg (m : Msg) : syndrome (encodeMsg m) = 0 := by
  obtain ⟨hsum, hweighted⟩ := sum_poly_eq_zero (msgFst m) (msgSnd m)
  rw [syndrome_of_syms (sym_encodeMsg m), hsum, hweighted]
  rfl

/-- The last two rows `[1, 2]` and `[1, 3]` of the parity-check matrix are independent. -/
theorem last_syms_zero : ∀ c d : Sym, c ^^^ d = 0 → gfmul 2 c ^^^ gfmul 3 d = 0 → c = 0 ∧ d = 0 := by decide

/-- The syndrome 0 and the first two symbols 0 leave only the byte 0. -/
theorem eq_zero_of_syndrome_eq_zero {b : Byte} (hb : syndrome b = 0) (h0 : sym b 0 = 0) (h1 : sym b 1 = 0) : b = 0 := by
  obtain ⟨hsum, hweighted⟩ := syndrome_eq_zero_iff.1 hb
  rw [syndSym_zero, h0, h1] at hsum
  rw [syndSym_one, h1] at hweighted
  obtain ⟨h2, h3⟩ := last_syms_zero (sym b 2) (sym b 3) (by simpa using hsum) (by simpa using hweighted)
  rw [← pack_syms b, h0, h1, h2, h3]
  rfl

theorem extractMsg_encodeMsg (m : Msg) : extractMsg (encodeMsg m) = m := by
  have h0 : sym (encodeMsg m) 0 = _ := sym_encodeMsg m 0
  have h1 : sym (encodeMsg m) 1 = _ := sym_encodeMsg m 1
  rw [poly_at_zero] at h0
  rw [gfmul_one] at h1
  rw [extractMsg, h0, h1, gfadd_eq_xor, BitVec.xor_comm, ← BitVec.xor_assoc, BitVec.xor_self, BitVec.zero_xor,
    pairSyms_msgFst_msgSnd]

/-- Only a byte with its first two symbols 0 carries the message 0. -/
theorem syms_eq_zero_of_extractMsg {b : Byte} (h : extractMsg b = 0) : sym b 0 = 0 ∧ sym b 1 = 0 := by
  obtain ⟨h0, h1⟩ := msg_eq_zero_iff.1 h
  rw [extractMsg, msgFst_pairSyms] at h0
  rw [extractMsg, msgSnd_pairSyms, h0, gfadd_zero] at h1
  exact ⟨h0, h1⟩

/-- Only codewords have the syndrome 0: the difference to the codeword of the same message is the byte 0 (R162). -/
theorem eq_encodeMsg_of_syndrome_eq_zero {b : Byte} (hb : syndrome b = 0) : b = encodeMsg (extractMsg b) := by
  have hmsg : extractMsg (b ^^^ encodeMsg (extractMsg b)) = 0 := by
    rw [extractMsg_xor, extractMsg_encodeMsg]
    exact BitVec.xor_self
  have hsynd : syndrome (b ^^^ encodeMsg (extractMsg b)) = 0 := by
    rw [syndrome_xor, hb, syndrome_encodeMsg]
    rfl
  obtain ⟨h0, h1⟩ := syms_eq_zero_of_extractMsg hmsg
  exact BitVec.xor_eq_zero_iff.1 (eq_zero_of_syndrome_eq_zero hsynd h0 h1)

theorem syndrome_encodeMsg_xor (m : Msg) (b : Byte) : syndrome (encodeMsg m ^^^ b) = syndrome b := by
  rw [syndrome_xor, syndrome_encodeMsg]
  exact BitVec.zero_xor

/-- Bytes of one syndrome differ by a codeword, so by at least three symbols (R146). -/
theorem eq_or_three_le_symDist {b c : Byte} (h : syndrome b = syndrome c) : b = c ∨ 3 ≤ symDist b c := by
  have hsynd : syndrome (b ^^^ c) = 0 := by
    rw [syndrome_xor, h]
    exact BitVec.xor_self
  have hcode := eq_encodeMsg_of_syndrome_eq_zero hsynd
  by_cases hm : extractMsg (b ^^^ c) = 0
  · rw [hm, encodeMsg_zero] at hcode
    exact .inl (BitVec.xor_eq_zero_iff.1 hcode)
  · rw [symDist, hcode]
    exact .inr (three_le_symWeight_encodeMsg hm)

/-! ### Errors in one symbol -/

/-- The error `e` in symbol `i` (R165). -/
def symbolError (i e : Sym) : Byte := e.setWidth 8 <<< (6 - 2 * i.toNat)

theorem sym_symbolError : ∀ i e j : Sym, sym (symbolError i e) j.toNat = if j = i then e else 0 := by decide

theorem symWeight_symbolError_le_one (i e : Sym) : symWeight (symbolError i e) ≤ 1 := by
  rw [symWeight_eq_card, Finset.card_le_one_iff_subset_singleton]
  refine ⟨i, fun j hj => ?_⟩
  rw [Finset.mem_filter, sym_symbolError] at hj
  exact Finset.mem_singleton.2 (by_contra fun hne => hj.2 (if_neg hne))

/-- A byte of weight at most 1 is an error in one symbol. -/
theorem eq_symbolError_of_symWeight_le_one {b : Byte} (h : symWeight b ≤ 1) : ∃ i e, b = symbolError i e := by
  rw [symWeight_eq_card, Finset.card_le_one_iff_subset_singleton] at h
  obtain ⟨i, hi⟩ := h
  refine ⟨i, sym b i.toNat, eq_of_forall_sym fun j => ?_⟩
  rw [sym_symbolError]
  split
  next hj => rw [hj]
  next hj =>
    by_contra hne
    exact hj (Finset.mem_singleton.1 (hi (Finset.mem_filter.2 ⟨Finset.mem_univ j, hne⟩)))

/-- With one non-zero symbol, each of the two sums keeps one term. -/
theorem sums_of_single : ∀ i e : Sym, let f : Sym → Sym := fun j => if j = i then e else 0
    f 0 ^^^ f 1 ^^^ f 2 ^^^ f 3 = e ∧ f 1 ^^^ gfmul 2 (f 2) ^^^ gfmul 3 (f 3) = gfmul e i := by decide

/-- The error `e` in symbol `i` has the syndrome `[e, e*i]` (R165). -/
theorem syndrome_symbolError (i e : Sym) : syndrome (symbolError i e) = pairSyms e (gfmul e i) := by
  obtain ⟨hsum, hweighted⟩ := sums_of_single i e
  rw [syndrome_of_syms (sym_symbolError i e), hsum, hweighted]

/-- An error in one symbol that leaves the first syndrome symbol at 0 is no error. -/
theorem symbolError_eq_zero_of_msgFst {i e : Sym} (h : msgFst (syndrome (symbolError i e)) = 0) : symbolError i e = 0 := by
  rw [syndrome_symbolError, msgFst_pairSyms] at h
  rw [symbolError, h]
  exact BitVec.zero_shiftLeft _

/-! ### The error patterns -/

/-- The weight is subadditive. -/
theorem symWeight_xor_le (b c : Byte) : symWeight (b ^^^ c) ≤ symWeight b + symWeight c := by
  simp only [symWeight_eq_card]
  refine le_trans (Finset.card_le_card fun j hj => ?_) (Finset.card_union_le _ _)
  simp only [Finset.mem_union, Finset.mem_filter, Finset.mem_univ, true_and, sym_xor] at hj ⊢
  refine not_and_or.1 fun ⟨hb, hc⟩ => hj ?_
  rw [hb, hc]
  exact BitVec.xor_self

/-- The entry of a syndrome has that syndrome (R166). -/
theorem syndrome_errEntry : ∀ k : SyndIdx, syndrome (errEntry k) = k := by decide

/-- An entry is an error in one symbol, or, where the first syndrome symbol is 0, one in the last two symbols (R166). -/
theorem errEntry_shape : ∀ k : SyndIdx, symWeight (errEntry k) ≤ 1 ∨
    (msgFst k = 0 ∧ symWeight (errEntry k) = 2 ∧ sym (errEntry k) 0 = 0 ∧ sym (errEntry k) 1 = 0) := by decide

/-- The first two symbols are the high half of the byte. -/
theorem high_syms_eq_zero_iff {b : Byte} : sym b 0 = 0 ∧ sym b 1 = 0 ↔ b.toNat < 16 := by
  have hhigh : pairSyms (sym b 0) (sym b 1) = b.extractLsb' 4 4 := BitVec.extractLsb'_append_extractLsb'_eq_extractLsb' rfl
  have hiff := msg_eq_zero_iff (m := b.extractLsb' 4 4)
  rw [← hhigh, msgFst_pairSyms, msgSnd_pairSyms, hhigh] at hiff
  rw [← hiff, ← BitVec.toNat_inj, BitVec.extractLsb'_toNat, Nat.shiftRight_eq_div_pow]
  have hb := b.isLt
  change b.toNat / 16 % 16 = 0 ↔ _
  omega

theorem eq_errEntry_or_three_le (b : Byte) : b = errEntry (syndrome b) ∨ 3 ≤ symWeight b + symWeight (errEntry (syndrome b)) := by
  have hfar := eq_or_three_le_symDist (syndrome_errEntry (syndrome b)).symm
  exact hfar.imp_right fun h => h.trans (symWeight_xor_le _ _)

/-- A byte of weight at most 1 is the entry of its syndrome. -/
theorem eq_errEntry_of_symWeight_le_one {b : Byte} (hb : symWeight b ≤ 1) : b = errEntry (syndrome b) := by
  rcases eq_errEntry_or_three_le b with h | h
  · exact h
  rcases errEntry_shape (syndrome b) with hone | ⟨hfst, htwo, -, -⟩
  · omega
  · obtain ⟨i, e, rfl⟩ := eq_symbolError_of_symWeight_le_one hb
    rw [symbolError_eq_zero_of_msgFst hfst]
    rfl

/-- Of the bytes of one syndrome, at most one has its first two symbols 0. -/
theorem eq_of_high_syms_eq_zero {b c : Byte} (h : syndrome b = syndrome c) (hb : sym b 0 = 0 ∧ sym b 1 = 0)
    (hc : sym c 0 = 0 ∧ sym c 1 = 0) : b = c := by
  refine BitVec.xor_eq_zero_iff.1 (eq_zero_of_syndrome_eq_zero ?_ ?_ ?_)
  · rw [syndrome_xor, h]
    exact BitVec.xor_self
  · rw [sym_xor, hb.1, hc.1]
    rfl
  · rw [sym_xor, hb.2, hc.2]
    rfl

/-- R166's rule: among the bytes of its syndrome the entry has the least weight, then the least number. -/
theorem errEntry_least (b : Byte) : symWeight (errEntry (syndrome b)) < symWeight b ∨
    (symWeight (errEntry (syndrome b)) = symWeight b ∧ (errEntry (syndrome b)).toNat ≤ b.toNat) := by
  by_cases hb : symWeight b ≤ 1
  · have heq := eq_errEntry_of_symWeight_le_one hb
    exact .inr ⟨congrArg symWeight heq.symm, (congrArg BitVec.toNat heq.symm).le⟩
  rcases errEntry_shape (syndrome b) with hone | ⟨-, htwo, hhigh⟩
  · omega
  have hentry := high_syms_eq_zero_iff.1 hhigh
  by_cases hlow : b.toNat < 16
  · have heq := eq_of_high_syms_eq_zero (syndrome_errEntry (syndrome b)) hhigh (high_syms_eq_zero_iff.2 hlow)
    exact .inr ⟨congrArg symWeight heq, (congrArg BitVec.toNat heq).le⟩
  · omega

/-- The table holds the entries of the 16 syndromes and nothing else. -/
theorem mem_errTable_iff {b : Byte} : b ∈ errTable ↔ b = errEntry (syndrome b) := by
  have entries_only : ∀ b ∈ errTable, b = errEntry (syndrome b) := by decide
  refine ⟨entries_only b, fun h => ?_⟩
  have hk : (syndrome b).toNat < errTable.length := (syndrome b).isLt
  rw [h, errEntry, tableRead, List.getD_eq_getElem _ _ hk]
  exact List.getElem_mem hk

/-! ### Correcting and decoding -/

theorem syndrome_correctWord (b : Byte) : syndrome (correctWord b) = 0 := by
  rw [correctWord, syndrome_xor, syndrome_errEntry]
  exact BitVec.xor_self

/-- The corrected word is the codeword of the decoded message (R169, R170). -/
theorem correctWord_eq_encodeMsg (b : Byte) : correctWord b = encodeMsg (decodeByte b) :=
  eq_encodeMsg_of_syndrome_eq_zero (syndrome_correctWord b)

/-- A codeword's part of a received word passes through (R169). -/
theorem correctWord_encodeMsg_xor (m : Msg) (e : Byte) : correctWord (encodeMsg m ^^^ e) = encodeMsg m ^^^ correctWord e := by
  rw [correctWord, correctWord, syndrome_encodeMsg_xor, BitVec.xor_assoc]

/-- A codeword is returned unchanged (R169). -/
theorem correctWord_encodeMsg (m : Msg) : correctWord (encodeMsg m) = encodeMsg m := by
  rw [correctWord, syndrome_encodeMsg]
  exact BitVec.xor_zero

theorem correctWord_eq_zero_iff {e : Byte} : correctWord e = 0 ↔ e = errEntry (syndrome e) := BitVec.xor_eq_zero_iff

theorem decodeByte_encodeMsg (m : Msg) : decodeByte (encodeMsg m) = m := by
  rw [decodeByte, correctWord_encodeMsg, extractMsg_encodeMsg]

/-- A corruption moves the decoded message by its own decoding (R173). -/
theorem decodeByte_encodeMsg_xor (m : Msg) (e : Byte) : decodeByte (encodeMsg m ^^^ e) = m ^^^ decodeByte e := by
  rw [decodeByte, correctWord_encodeMsg_xor, extractMsg_xor, extractMsg_encodeMsg, decodeByte]

/-- A corruption decodes to 0 exactly if it is the entry of its syndrome. -/
theorem decodeByte_eq_zero_iff {e : Byte} : decodeByte e = 0 ↔ e = errEntry (syndrome e) := by
  rw [← correctWord_eq_zero_iff, correctWord_eq_encodeMsg, ← encodeMsg_zero]
  exact encodeMsg_injective.eq_iff.symm

/-- The message comes through exactly if the corruption is the entry of its syndrome (R173). -/
theorem decodeByte_encodeMsg_xor_eq_iff {m : Msg} {e : Byte} :
    decodeByte (encodeMsg m ^^^ e) = m ↔ e = errEntry (syndrome e) := by
  rw [decodeByte_encodeMsg_xor, ← decodeByte_eq_zero_iff]
  exact xor_left_eq_self_iff

/-! ### The operations -/

theorem exec_synd (b : Byte) (s : State) : exec (.synd b) s = .next (reply ((syndrome b).setWidth 8) s) := rfl

theorem exec_errpat (k : SyndIdx) (s : State) : exec (.errpat k) s = .next (reply (errEntry k) s) := rfl

theorem exec_correct (b : Byte) (s : State) : exec (.correct b) s = .next (reply (correctWord b) s) := rfl

theorem exec_decode (b : Byte) (s : State) : exec (.decode b) s = .next (reply ((decodeByte b).setWidth 8) s) := rfl

theorem exec_decode_of_eq {b : Byte} {m : Msg} (h : decodeByte b = m) (s : State) :
    exec (.decode b) s = .next { s with replies := s.replies ++ [.result (m.setWidth 8)] } := by
  rw [exec_decode, h]
  rfl

/-! ### The statements -/

/-- Settles O21: an error in one symbol is the entry of its syndrome, so the corrector takes it away. -/
theorem singleSymbolErrorsAreCorrected : Obligations.SingleSymbolErrorsAreCorrected := by
  intro m s
  refine ⟨exec_decode_of_eq (decodeByte_encodeMsg m) s, fun i e _ => exec_decode_of_eq ?_ s⟩
  have hentry := eq_errEntry_of_symWeight_le_one (symWeight_symbolError_le_one i e)
  exact decodeByte_encodeMsg_xor_eq_iff.2 hentry

/-- Settles O14: the word is a sum of its two parts, and the answer is the syndrome in closed form. -/
theorem syndGivesTheSyndrome : Obligations.SyndGivesTheSyndrome := by
  intro b s
  refine ⟨append_eq_shiftLeft_add 0x4#4 b, ?_⟩
  rw [exec_synd, syndrome, syndSym_zero, syndSym_one]
  rfl

/-- Settles O15: the syndrome is linear, and its kernel is the code. -/
theorem syndromeSeesOnlyTheCorruption : Obligations.SyndromeSeesOnlyTheCorruption :=
  ⟨syndrome_xor, syndrome_encodeMsg, fun b hb => ⟨extractMsg b, eq_encodeMsg_of_syndrome_eq_zero hb⟩, syndrome_encodeMsg_xor,
    syndrome_symbolError⟩

/-- Settles O16: the answer is the table's entry, and its syndrome is the index. -/
theorem errpatGivesTheEntry : Obligations.ErrpatGivesTheEntry := fun k s =>
  ⟨append_eq_shiftLeft_add 0x50#8 k, syndrome_errEntry k, exec_errpat k s⟩

/-- Settles O17, by the distance of the code. -/
theorem errorPatternsAreLeast : Obligations.ErrorPatternsAreLeast := ⟨syndrome_errEntry, errEntry_least⟩

/-- Settles O18: the word is a sum of its two parts, and the answer is the corrected word. -/
theorem correctAddsTheErrorPattern : Obligations.CorrectAddsTheErrorPattern := fun b s =>
  ⟨append_eq_shiftLeft_add 0x6#4 b, exec_correct b s⟩

/-- Settles O19: the corrected word is the codeword of the decoded message, and codewords are returned unchanged. -/
theorem correctedWordsAreCodewords : Obligations.CorrectedWordsAreCodewords := by
  refine ⟨fun b => ⟨decodeByte b, correctWord_eq_encodeMsg b⟩, fun b => ?idempotent, correctWord_encodeMsg,
    correctWord_encodeMsg_xor⟩
  case idempotent => rw [correctWord_eq_encodeMsg b, correctWord_encodeMsg]

/-- Settles O20: the word is a sum of its two parts, and the answer is read off the corrected word. -/
theorem decodeGivesTheMessage : Obligations.DecodeGivesTheMessage := by
  intro b s
  refine ⟨append_eq_shiftLeft_add 0x7#4 b, ?_⟩
  rw [exec_decode, decodeByte, extractMsg, gfadd_eq_xor]
  rfl

/-- Settles O22: decoding goes through the sum, and the entries are the corruptions that decode to 0. -/
theorem corruptionMovesTheMessage : Obligations.CorruptionMovesTheMessage := fun m e =>
  ⟨decodeByte_encodeMsg_xor m e, decodeByte_encodeMsg_xor_eq_iff.trans mem_errTable_iff.symm⟩

end Sys2Proof.Proofs.Decoder
end

section
/-! The frame serializer (43_frame_tx.md): what a read of a register gives and costs, a transmission as the bytes it appends to
`TXQ`, and the four transmit operations as transmissions that depend on the record and the counter of free values alone. -/

namespace Sys2Proof.Proofs.FrameTx

open Sys2Proof Sys2Proof.Machine Sys2Proof.Proofs.BallState

/-! ### Reading a register -/

/-- The bits a read of the register gives when `n` free values have been used (R25, R251). -/
def readBits {w : Nat} (r : Reg w) (n : Nat) : BitVec w := if r.written then r.bits else (Config.freeBits n).setWidth w

/-- How many free values a read of the register uses (log entries 4 and 8). -/
def readCost {w : Nat} (r : Reg w) : Nat := if r.written then 0 else 1

theorem readReg_eq {w : Nat} (r : Reg w) (s : State) :
    readReg r s = (readBits r s.fresh, { s with fresh := s.fresh + readCost r }) := by
  cases h : r.written <;> simp [h, readBits, readCost]

theorem readBits_written {w : Nat} {r : Reg w} (h : r.written = true) (n : Nat) : readBits r n = r.bits := if_pos h

theorem readCost_written {w : Nat} {r : Reg w} (h : r.written = true) : readCost r = 0 := if_pos h

theorem readCost_le_one {w : Nat} (r : Reg w) : readCost r ≤ 1 := by
  unfold readCost
  split <;> decide

/-! ### Transmissions -/

/-- The state after the bytes `sent` have gone out, with their number as the result (R98) and `n` free values used. -/
def transmitted (sent : List Byte) (n : Nat) (s : State) : State :=
  { s with txq := s.txq ++ sent, replies := s.replies ++ [.result (BitVec.ofNat 8 sent.length)], fresh := n }

/-- The two bytes of a position frame, coordinate first, for a record read when `n` free values have been used (R192). -/
def positionFrame (b : Ball) (n : Nat) : List Byte :=
  [encodeMsg (coordMsg (readBits b.x n)), encodeMsg (dirMsg (readBits b.dx (n + readCost b.x)))]

theorem transmitPosition_eq (s : State) :
    transmitPosition s =
      transmitted (positionFrame s.ball s.fresh) (s.fresh + readCost s.ball.x + readCost s.ball.dx) s := by
  simp only [transmitPosition, readReg_eq, sendPosition, reply, send, List.append_assoc]
  rfl

/-- The byte of the death sentinel (R196). -/
theorem encodeMsg_msgDeath : encodeMsg msgDeath = 0xC9#8 := by decide

theorem transmitDeath_eq (s : State) : transmitDeath s = transmitted [0xC9#8] s.fresh s := by
  rw [← encodeMsg_msgDeath]
  rfl

/-! ### The operations -/

theorem exec_txpos (s : State) :
    exec .txpos s = .next
      (transmitted (positionFrame s.ball s.fresh) (s.fresh + readCost s.ball.x + readCost s.ball.dx) s) :=
  congrArg Host.Outcome.next (transmitPosition_eq s)

theorem exec_txdeath (s : State) : exec .txdeath s = .next (transmitted [0xC9#8] s.fresh s) :=
  congrArg Host.Outcome.next (transmitDeath_eq s)

/-- `TXBALL` on a `DEAD` that reads as 1 (R200). -/
theorem exec_txball_of_dead {s : State} (h : readBits s.ball.dead s.fresh = 1) :
    exec .txball s = .next (transmitted [0xC9#8] (s.fresh + readCost s.ball.dead) s) := by
  simp only [exec, execTxball, readReg_eq, if_pos h, transmitDeath_eq]
  rfl

/-- `TXBALL` on a `DEAD` that reads as 0 is `TXPOS` after that read (R200). -/
theorem exec_txball_of_not_dead {s : State} (h : readBits s.ball.dead s.fresh ≠ 1) :
    exec .txball s = exec .txpos { s with fresh := s.fresh + readCost s.ball.dead } := by
  simp only [exec, execTxball, execTxpos, readReg_eq, if_neg h]

theorem exec_inform_of_control {m : Msg} (h : isControl m = true) (s : State) :
    exec (.inform m) s = .next (transmitted [encodeMsg m] s.fresh s) := if_pos h

theorem exec_inform_of_not_control {m : Msg} (h : ¬ isControl m = true) (s : State) :
    exec (.inform m) s = .refused (.reservedControlValue m) := if_neg h

theorem isControl_iff {m : Msg} : isControl m = true ↔ m = 1 ∨ m = 2 := by
  simp only [isControl, msgGameStart, msgRoundStart, Bool.or_eq_true, beq_iff_eq]

/-! ### What a transmit operation can do -/

/-- The operation sends one or two bytes from `s`, and from every state that differs in `RXQ` alone the same bytes. -/
def sendsIgnoringRxq (i : Instr) (s : State) : Prop :=
  ∃ (sent : List Byte) (n : Nat), 1 ≤ sent.length ∧ sent.length ≤ 2 ∧
    ∀ q : List Byte, exec i { s with rxq := q } = .next (transmitted sent n { s with rxq := q })

theorem sendsIgnoringRxq_of_one_byte {i : Instr} {s : State} (b : Byte) (n : Nat)
    (h : ∀ q : List Byte, exec i { s with rxq := q } = .next (transmitted [b] n { s with rxq := q })) :
    sendsIgnoringRxq i s := ⟨[b], n, le_refl 1, one_le_two, h⟩

theorem txpos_sendsIgnoringRxq (s : State) : sendsIgnoringRxq .txpos s :=
  ⟨positionFrame s.ball s.fresh, s.fresh + readCost s.ball.x + readCost s.ball.dx, one_le_two, le_refl 2,
    fun q => exec_txpos { s with rxq := q }⟩

theorem txball_sendsIgnoringRxq (s : State) : sendsIgnoringRxq .txball s := by
  by_cases hdead : readBits s.ball.dead s.fresh = 1
  · exact sendsIgnoringRxq_of_one_byte 0xC9#8 (s.fresh + readCost s.ball.dead)
      fun q => exec_txball_of_dead (s := { s with rxq := q }) hdead
  · obtain ⟨sent, n, hpos, htwo, hexec⟩ := txpos_sendsIgnoringRxq { s with fresh := s.fresh + readCost s.ball.dead }
    exact ⟨sent, n, hpos, htwo, fun q => (exec_txball_of_not_dead (s := { s with rxq := q }) hdead).trans (hexec q)⟩

/-- A transmit operation that completes sends bytes which `RXQ` has no part in (R206). -/
theorem transmits_sendsIgnoringRxq {i : Instr} {s t : State} (hi : transmits i) (h : exec i s = .next t) :
    sendsIgnoringRxq i s := by
  rcases hi with rfl | rfl | rfl | ⟨m, rfl⟩
  · exact txpos_sendsIgnoringRxq s
  · exact sendsIgnoringRxq_of_one_byte 0xC9#8 s.fresh fun q => exec_txdeath { s with rxq := q }
  · exact txball_sendsIgnoringRxq s
  · by_cases hm : isControl m = true
    · exact sendsIgnoringRxq_of_one_byte (encodeMsg m) s.fresh fun q => exec_inform_of_control hm { s with rxq := q }
    · rw [exec_inform_of_not_control hm] at h
      cases h

/-! ### The messages of a position frame -/

/-- A legal coordinate's message (R191). -/
theorem toNat_coordMsg : ∀ x : BitVec 3, x.toNat ≤ 6 → ((coordMsg x).toNat : Int) = 7 - x.toNat := by decide

/-- A legal direction's message (R191). -/
theorem toNat_dirMsg : ∀ dx : BitVec 2, dx ≠ 0b10#2 → ((dirMsg dx).toNat : Int) = 2 - dx.toInt := by decide

theorem dirMsg_range : ∀ dx : BitVec 2, dx ≠ 0b10#2 → 1 ≤ (dirMsg dx).toNat ∧ (dirMsg dx).toNat ≤ 3 := by decide

theorem coordMsg_readBits_written {r : Reg 3} (h : r.written = true) (n : Nat) :
    coordMsg (readBits r n) = BitVec.ofInt 4 (7 - r.bits.toNat) := by
  rw [readBits_written h, coordMsg_eq]

theorem dirMsg_readBits_written {r : Reg 2} (h : r.written = true) (n : Nat) :
    dirMsg (readBits r n) = BitVec.ofInt 4 (2 - r.bits.toInt) := by
  rw [readBits_written h, dirMsg_eq]

/-- `TXPOS` on written fields sends their messages and uses no free value (R192). -/
theorem exec_txpos_written {s : State} (hx : s.ball.x.written = true) (hd : s.ball.dx.written = true) :
    exec .txpos s =
      .next (transmitted [encodeMsg (coordMsg s.ball.x.bits), encodeMsg (dirMsg s.ball.dx.bits)] s.fresh s) := by
  rw [exec_txpos, positionFrame, readBits_written hx, readBits_written hd, readCost_written hx, readCost_written hd]
  rfl

/-! ### The statements -/

/-- Settles O23: on legal fields the two messages are the integers of R191, and written fields are read as they stand. -/
theorem txposSendsThePositionFrame : Obligations.TxposSendsThePositionFrame := by
  intro s hx hd hcoord hdir
  have hcm := toNat_coordMsg s.ball.x.bits hcoord
  obtain ⟨hpos, hthree⟩ := dirMsg_range s.ball.dx.bits hdir
  exact ⟨coordMsg s.ball.x.bits, dirMsg s.ball.dx.bits, hcm, by omega, by omega, toNat_dirMsg s.ball.dx.bits hdir, hpos, hthree,
    exec_txpos_written hx hd⟩

/-- Settles O24: the messages are those of the bits read, and each read costs at most one free value. -/
theorem txposRunsOnUnwrittenFields : Obligations.TxposRunsOnUnwrittenFields := fun s =>
  ⟨_, _, _, fun hx => coordMsg_readBits_written hx _, fun hd => dirMsg_readBits_written hd _, rfl, exec_txpos s⟩

/-- Settles O26: a written `DEAD` is read as it stands, and its two values select the two branches. -/
theorem txballChoosesOnTheDeadFlag : Obligations.TxballChoosesOnTheDeadFlag := by
  intro s hdead
  have hread := readBits_written hdead s.fresh
  refine ⟨fun hone => ?sentinel, fun hzero hx hd => ?frame⟩
  case sentinel =>
    rw [exec_txball_of_dead (hread.trans hone), readCost_written hdead]
    rfl
  case frame =>
    have hne : readBits s.ball.dead s.fresh ≠ 1 := by
      rw [hread, hzero]
      decide
    rw [exec_txball_of_not_dead hne, readCost_written hdead, ← coordMsg_eq, ← dirMsg_eq]
    exact exec_txpos_written hx hd

/-- Settles O27, by the bit that the read of `DEAD` gives: a `DEAD` that has been written is 0 here. -/
theorem txballRunsOnUnwrittenFields : Obligations.TxballRunsOnUnwrittenFields := by
  intro s hfree
  have hdead := readCost_le_one s.ball.dead
  by_cases hone : readBits s.ball.dead s.fresh = 1
  · have hunwritten : s.ball.dead.written = false := by
      refine Bool.eq_false_iff.2 fun hwritten => ?_
      have hzero := hfree.resolve_left (Bool.eq_false_iff.1 · hwritten)
      rw [readBits_written hwritten, hzero] at hone
      cases hone
    exact ⟨s.fresh + readCost s.ball.dead, by omega, by omega, .inl ⟨hunwritten, exec_txball_of_dead hone⟩⟩
  · have hx := readCost_le_one s.ball.x
    have hd := readCost_le_one s.ball.dx
    refine ⟨s.fresh + readCost s.ball.dead + readCost s.ball.x + readCost s.ball.dx, by omega, by omega, .inr ?_⟩
    exact ⟨_, _, fun hx => coordMsg_readBits_written hx _, fun hd => dirMsg_readBits_written hd _,
      (exec_txball_of_not_dead hone).trans (exec_txpos _)⟩

/-- Settles O29: a transmit operation only sends, and the same bytes whatever waits in `RXQ`. -/
theorem transmitTouchesOnlyTheTransmitStream : Obligations.TransmitTouchesOnlyTheTransmitStream := by
  intro i s t hi h
  obtain ⟨sent, n, hpos, htwo, hexec⟩ := transmits_sendsIgnoringRxq hi h
  obtain rfl := Host.Outcome.next.inj ((hexec s.rxq).symm.trans h)
  exact ⟨rfl, rfl, rfl, rfl, rfl, ⟨sent, rfl, hpos, htwo, rfl⟩, hexec⟩

/-- Settles O25: the word has no operand, and the byte is the sentinel's codeword. -/
theorem txdeathSendsTheSentinel : Obligations.TxdeathSendsTheSentinel := ⟨rfl, encodeMsg_msgDeath, exec_txdeath⟩

/-- Settles O28: 1 and 2 are the control values, and their bytes are their codewords. -/
theorem informSendsControlSignals : Obligations.InformSendsControlSignals := by
  refine ⟨rfl, rfl, fun s => ⟨?start, ?round, fun m hstart hround => ?other⟩⟩
  case start =>
    rw [exec_inform_of_control (isControl_iff.2 (.inl rfl)), show encodeMsg 1 = 0x1B#8 by decide]
    rfl
  case round =>
    rw [exec_inform_of_control (isControl_iff.2 (.inr rfl)), show encodeMsg 2 = 0x2D#8 by decide]
    rfl
  case other => exact exec_inform_of_not_control (fun hm => (isControl_iff.1 hm).elim hstart hround) s

end Sys2Proof.Proofs.FrameTx
end

section
/-! The frame deserializer (44_frame_rx.md): one receive step for each class of byte, an `RXBALL` as the one or two receive steps it
makes, how much of `RXQ` it takes, and a frame that crosses a link with one wrong symbol in each byte. -/

namespace Sys2Proof.Proofs.FrameRx

open Sys2Proof Sys2Proof.Machine Sys2Proof.Proofs.BallState Sys2Proof.Proofs.Memory Sys2Proof.Proofs.Decoder
  Sys2Proof.Proofs.FrameTx

/-! ### One receive step for each class of byte -/

/-- The state after a byte with the coordinate message `m` has been taken, with `q` left in `RXQ` (R224). -/
def latched (m : Msg) (q : List Byte) (s : State) : State :=
  { s with rxc := BitVec.ofNat 3 (m.toNat - 1), rxs := .awaitDir, rxq := q }

theorem rxStep_of_coordinate {s : State} {b : Byte} {q : List Byte} (hs : s.rxs = .awaitCoord) (hq : s.rxq = b :: q)
    (h1 : 1 ≤ (decodeByte b).toNat) (h7 : (decodeByte b).toNat ≤ 7) : rxStep s = (.pending, latched (decodeByte b) q s) := by
  rw [rxStep_coord hq hs]
  rcases takeCoord_cases (decodeByte b) { s with rxq := q } with ⟨_, _, h⟩ | ⟨h15, _⟩ | ⟨hnoise, _⟩
  · exact h
  · omega
  · omega

theorem rxStep_of_sentinel {s : State} {b : Byte} {q : List Byte} (hs : s.rxs = .awaitCoord) (hq : s.rxq = b :: q)
    (h15 : decodeByte b = 15) : rxStep s = (.death, { s with rxq := q, ball := setDead s.ball }) := by
  rw [rxStep_coord hq hs, h15]
  rfl

theorem rxStep_of_noise {s : State} {b : Byte} {q : List Byte} (hs : s.rxs = .awaitCoord) (hq : s.rxq = b :: q)
    (hnoise : (decodeByte b).toNat = 0 ∨ (8 ≤ (decodeByte b).toNat ∧ (decodeByte b).toNat ≤ 14)) :
    rxStep s = (.dropCoord, { s with rxq := q }) := by
  rw [rxStep_coord hq hs]
  rcases takeCoord_cases (decodeByte b) { s with rxq := q } with ⟨h1, h7, _⟩ | ⟨h15, _⟩ | ⟨_, h⟩
  · omega
  · omega
  · exact h

theorem rxStep_of_direction {s : State} {b : Byte} {q : List Byte} (hs : s.rxs = .awaitDir) (hq : s.rxq = b :: q)
    (h1 : 1 ≤ (decodeByte b).toNat) (h3 : (decodeByte b).toNat ≤ 3) :
    rxStep s = (.commit, { s with rxq := q, rxs := .awaitCoord, ball := commitBall s.rxc (dirOf (decodeByte b)) s.ball }) := by
  rw [rxStep_dir hq hs]
  rcases takeDir_cases (decodeByte b) { s with rxq := q } with ⟨_, _, h⟩ | ⟨hother, _⟩
  · exact h
  · omega

theorem rxStep_of_not_direction {s : State} {b : Byte} {q : List Byte} (hs : s.rxs = .awaitDir) (hq : s.rxq = b :: q)
    (hother : (decodeByte b).toNat = 0 ∨ 4 ≤ (decodeByte b).toNat) :
    rxStep s = (.dropDir, { s with rxq := q, rxs := .awaitCoord }) := by
  rw [rxStep_dir hq hs]
  rcases takeDir_cases (decodeByte b) { s with rxq := q } with ⟨h1, h3, _⟩ | ⟨_, h⟩
  · omega
  · exact h

/-- In AWAIT_DIR a waiting byte completes the frame or drops it (R227). -/
theorem rxStep_event_of_awaitDir {s : State} {b : Byte} {q : List Byte} (hs : s.rxs = .awaitDir) (hq : s.rxq = b :: q) :
    (rxStep s).1 = .commit ∨ (rxStep s).1 = .dropDir := by
  rw [rxStep_dir hq hs]
  exact (takeDir_cases (decodeByte b) { s with rxq := q }).imp (fun ⟨_, _, h⟩ => by rw [h]) (fun ⟨_, h⟩ => by rw [h])

/-- Only a coordinate byte taken in AWAIT_COORD leaves a frame in progress (R224). -/
theorem awaitCoord_of_rxStep_pending {s : State} (h : (rxStep s).1 = .pending) : s.rxs = .awaitCoord := by
  refine (rxs_cases s).resolve_right fun hs => ?_
  rcases receiveByte_cases s with ⟨hq, _⟩ | ⟨b, q, hq, _⟩
  · rw [rxStep_empty hq] at h
    cases h
  · rcases rxStep_event_of_awaitDir hs hq with he | he <;> cases he.symm.trans h

/-! ### `RXBALL` as receive steps -/

theorem exec_rxball (s : State) : exec .rxball s = .next (reply (eventCode (rxSteps s).1) (rxSteps s).2) := rfl

/-- An `RXBALL` whose first receive step does not latch a coordinate ends there (R233). -/
theorem exec_rxball_single {s t : State} {e : Event} (h : rxStep s = (e, t)) (he : e ≠ .pending) :
    exec .rxball s = .next (reply (eventCode e) t) := by
  rw [exec_rxball, rxSteps_single h he]

/-- An `RXBALL` that latches the last byte waiting reports PENDING (R232, R233). -/
theorem exec_rxball_pending_alone {s t : State} (h : rxStep s = (.pending, t)) (ht : t.rxq = []) :
    exec .rxball s = .next (reply 1 t) := by
  rw [exec_rxball, rxSteps_pending h, rxStep_empty ht]
  rfl

/-- With a further byte waiting, the second receive step is all that an `RXBALL` in the latched state would do (R233). -/
theorem exec_rxball_pending_more {s t : State} {b : Byte} {q : List Byte} (h : rxStep s = (.pending, t)) (ht : t.rxs = .awaitDir)
    (hq : t.rxq = b :: q) : exec .rxball s = exec .rxball t := by
  rcases hstep : rxStep t with ⟨e, u⟩
  have hevent := rxStep_event_of_awaitDir ht hq
  rw [hstep] at hevent
  rw [exec_rxball, rxSteps_pending h, hstep]
  rcases hevent with rfl | rfl
  · exact (exec_rxball_single hstep Event.noConfusion).symm
  · exact (exec_rxball_single hstep Event.noConfusion).symm

/-! ### How much an `RXBALL` takes -/

/-- A receive step takes the oldest byte, if there is one (R60, R221). -/
theorem rxStep_rxq (s : State) : (rxStep s).2.rxq = s.rxq.drop 1 := by
  rcases rxStep_cases s with ⟨hq, h⟩ | ⟨b, q, hq, ⟨_, _, _, h⟩ | ⟨_, _, h⟩ | ⟨_, _, h⟩ | ⟨_, _, _, h⟩ | ⟨_, _, h⟩⟩ <;>
    simp only [h, hq, List.drop_nil, List.drop_succ_cons, List.drop_zero]

theorem rxSteps_rxq (s : State) : ∃ n, n ≤ 2 ∧ (s.rxs = .awaitDir → n ≤ 1) ∧ (rxSteps s).2.rxq = s.rxq.drop n := by
  have hfirst := rxStep_rxq s
  rcases h : rxStep s with ⟨e, t⟩
  rw [h] at hfirst
  by_cases he : e = .pending
  · subst he
    have hcoord : s.rxs = .awaitCoord := awaitCoord_of_rxStep_pending (congrArg Prod.fst h)
    refine ⟨2, le_refl 2, fun hdir => (nomatch hcoord.symm.trans hdir), ?_⟩
    rw [rxSteps_pending h, rxStep_rxq t, hfirst, List.drop_drop]
  · exact ⟨1, one_le_two, fun _ => le_refl 1, by rw [rxSteps_single h he, hfirst]⟩

theorem rxStep_inputs (s : State) : (rxStep s).2.inputs = s.inputs := by
  rcases rxStep_cases s with ⟨_, h⟩ | ⟨b, q, _, ⟨_, _, _, h⟩ | ⟨_, _, h⟩ | ⟨_, _, h⟩ | ⟨_, _, _, h⟩ | ⟨_, _, h⟩⟩ <;> rw [h]

theorem rxSteps_inputs (s : State) : (rxSteps s).2.inputs = s.inputs :=
  rxSteps_keeps (P := fun t => t.inputs = s.inputs) (fun t ht => (rxStep_inputs t).trans ht) rfl

/-- The receiver reads no field, so it uses no free value. -/
theorem rxSteps_fresh (s : State) : (rxSteps s).2.fresh = s.fresh := congrArg (fun r => r.2.fresh) (rxSteps_withFresh s s.fresh)

theorem eventCode_le_five (e : Event) : (eventCode e).toNat ≤ 5 := by cases e <;> decide

/-! ### A frame over a link with one wrong symbol in each byte -/

/-- A byte that differs from a codeword in at most one symbol decodes to its message (R172). -/
theorem decodeByte_of_symDist_le_one {m : Msg} {g : Byte} (h : symDist (encodeMsg m) g ≤ 1) : decodeByte g = m := by
  have hg : encodeMsg m ^^^ (encodeMsg m ^^^ g) = g := by rw [← BitVec.xor_assoc, BitVec.xor_self, BitVec.zero_xor]
  rw [← hg]
  exact decodeByte_encodeMsg_xor_eq_iff.2 (eq_errEntry_of_symWeight_le_one h)

/-- What arrives for two codewords is two bytes that decode to their messages (R62, R172). -/
theorem linkOneSym_pair {m n : Msg} {got : List Byte} (h : linkOneSym [encodeMsg m, encodeMsg n] got) :
    ∃ b d, got = [b, d] ∧ decodeByte b = m ∧ decodeByte d = n := by
  obtain ⟨b, rest, hb, hrest, rfl⟩ := List.forall₂_cons_left_iff.1 h
  obtain ⟨d, rest, hd, hnil, rfl⟩ := List.forall₂_cons_left_iff.1 hrest
  obtain rfl := List.forall₂_nil_left_iff.1 hnil
  exact ⟨b, d, rfl, decodeByte_of_symDist_le_one hb, decodeByte_of_symDist_le_one hd⟩

/-- A legal coordinate arrives mirrored about the middle of the wall (R191, R222). -/
theorem latched_coordMsg : ∀ x : BitVec 3, x.toNat ≤ 6 → BitVec.ofNat 3 ((coordMsg x).toNat - 1) = 6#3 - x := by decide

/-- A legal direction arrives reversed (R191, R222). -/
theorem received_dirMsg : ∀ dx : BitVec 2, dx ≠ 0b10#2 → BitVec.ofInt 2 ((dirMsg dx).toNat - 2) = -dx := by decide

/-! ### The statements -/

/-- Settles O30: with an empty queue the one receive step does nothing. -/
theorem rxballWithNothingReady : Obligations.RxballWithNothingReady := fun _ hq =>
  exec_rxball_single (rxStep_empty hq) Event.noConfusion

/-- Settles O31: the first receive step latches, and on an emptied queue the second one does nothing. -/
theorem rxballLatchesTheCoordinate : Obligations.RxballLatchesTheCoordinate := by
  intro s b q hs hq h1 h7
  have hstep := rxStep_of_coordinate hs hq h1 h7
  refine ⟨hstep, ?_⟩
  rintro rfl
  exact exec_rxball_pending_alone hstep rfl

/-- Settles O32: the receive step that takes the sentinel sets the flag, and it is the only one. -/
theorem rxballSetsDeadOnTheSentinel : Obligations.RxballSetsDeadOnTheSentinel := fun _ _ _ hs hq h15 =>
  exec_rxball_single (rxStep_of_sentinel hs hq h15) Event.noConfusion

/-- Settles O33: the receive step that takes noise only takes it, and it is the only one. -/
theorem rxballDropsNoise : Obligations.RxballDropsNoise := fun _ _ _ hs hq hnoise =>
  exec_rxball_single (rxStep_of_noise hs hq (hnoise.imp_left (congrArg BitVec.toNat))) Event.noConfusion

/-- Settles O34: in AWAIT_DIR the one receive step commits or drops. -/
theorem rxballTakesTheDirection : Obligations.RxballTakesTheDirection := fun _ _ _ hs hq =>
  ⟨fun h1 h3 => exec_rxball_single (rxStep_of_direction hs hq h1 h3) Event.noConfusion,
    fun hother => exec_rxball_single (rxStep_of_not_direction hs hq hother) Event.noConfusion⟩

/-- Settles O35: after the coordinate has been latched, the further byte is taken as by an `RXBALL` in AWAIT_DIR. -/
theorem rxballTakesBothBytesOfAFrame : Obligations.RxballTakesBothBytesOfAFrame := by
  intro s b d q hs hq h1 h7
  rw [exec_rxball_pending_more (rxStep_of_coordinate hs hq h1 h7) rfl rfl, hs]
  exact rxballTakesTheDirection (latched (decodeByte b) (d :: q) s) d q rfl rfl

/-- Settles O36: the receive steps take the front of `RXQ` and touch neither `TXQ` nor the model's own records. -/
theorem rxballIsTotalAndBounded : Obligations.RxballIsTotalAndBounded := by
  intro s
  obtain ⟨n, htwo, hone, hrxq⟩ := rxSteps_rxq s
  refine ⟨_, min n s.rxq.length, eventCode (rxSteps s).1, exec_rxball s, ?_, min_le_right _ _, ?_, ?_, rxSteps_txq s,
    eventCode_le_five _, ?_, rxSteps_inputs s, rxSteps_fresh s⟩
  · exact (min_le_left _ _).trans htwo
  · exact fun hdir => (min_le_left _ _).trans (hone hdir)
  · rw [reply_rxq, hrxq, ← List.drop_eq_drop_min]
  · rw [reply_replies, rxSteps_replies]

/-- Settles O38: each byte decodes to the message that was sent, so the receiver commits the frame of the two messages. -/
theorem ballCrossesAOneSymbolLink : Obligations.BallCrossesAOneSymbolLink := by
  intro a r hx hd hcoord hdir hs _
  refine ⟨_, exec_txpos_written hx hd, fun got hlink => ?_⟩
  have hcm := toNat_coordMsg a.ball.x.bits hcoord
  obtain ⟨hpos, hthree⟩ := dirMsg_range a.ball.dx.bits hdir
  rw [transmitted, List.drop_left] at hlink
  obtain ⟨b, d, rfl, hb, hdm⟩ := linkOneSym_pair hlink
  have hframe := rxballTakesBothBytesOfAFrame { r with rxq := [b, d] } b d [] hs rfl
  rw [hb, hdm, latched_coordMsg _ hcoord, received_dirMsg _ hdir] at hframe
  obtain ⟨hcommit, -⟩ := hframe (by omega) (by omega)
  exact hcommit hpos hthree

end Sys2Proof.Proofs.FrameRx
end

section
/-! Host access to the record (45_host_access.md): the register of a field, what `RDB` and `WRB` do for any field, and which values
`WRB` takes. -/

namespace Sys2Proof.Proofs.HostAccess

open Sys2Proof Sys2Proof.Machine Sys2Proof.Proofs.BallState Sys2Proof.Proofs.FieldArithmetic

/-! ### The command words -/

/-- The word of format R as a sum (R96, R251). -/
theorem encode_rdb (f : BitVec 3) : encode (.rdb f) = 0xD00#12 + f.setWidth 12 := by
  apply BitVec.eq_of_toNat_eq
  have hf := f.isLt
  have hword : (encode (.rdb f)).toNat = 0xD00 + f.toNat := toNat_append_eq_mul_add (0xD0#8 ++ 0#1) f
  simp only [hword, BitVec.toNat_add, BitVec.toNat_setWidth, BitVec.toNat_ofNat]
  omega

/-- The word of format W as a sum (R96, R253). -/
theorem encode_wrb (f : BitVec 3) (v : BitVec 4) :
    encode (.wrb f v) = 0xE00#12 + 16#12 * f.setWidth 12 + v.setWidth 12 := by
  apply BitVec.eq_of_toNat_eq
  have hf := f.isLt
  have hv := v.isLt
  have hword : (encode (.wrb f v)).toNat = (0x1C * 2 ^ 3 + f.toNat) * 2 ^ 4 + v.toNat := by
    rw [encode, toNat_append_eq_mul_add, toNat_append_eq_mul_add]
    rfl
  simp only [hword, BitVec.toNat_add, BitVec.toNat_mul, BitVec.toNat_setWidth, BitVec.toNat_ofNat]
  omega

/-! ### The register of a field -/

/-- The register of the record that holds a field (R20, R21). -/
def fieldReg (b : Ball) : (fd : Field) → Reg (fieldWidth fd)
  | .x => b.x
  | .y => b.y
  | .dx => b.dx
  | .dy => b.dy
  | .onscr => b.onscr
  | .dead => b.dead

/-- Reading a field is reading its register, zero-extended (R251). -/
theorem readField_eq (fd : Field) (s : State) :
    readField fd s = ((readReg (fieldReg s.ball fd) s).1.setWidth 8, (readReg (fieldReg s.ball fd) s).2) := by
  cases fd <;> rfl

/-- A field's register right after a write: the value cut to the field's width, and written (R25, R253). -/
theorem fieldReg_writeField_same (fd : Field) (v : BitVec 4) (b : Ball) :
    fieldReg (writeField fd v b) fd = ⟨v.setWidth (fieldWidth fd), true⟩ := by
  cases fd with
  | y => exact congrArg (Reg.mk · true) (BitVec.setWidth_eq v).symm
  | x | dx | dy | onscr | dead => rfl

/-! ### `RDB` -/

theorem exec_rdb {f : BitVec 3} {fd : Field} (hf : fieldOf f = some fd) (s : State) :
    exec (.rdb f) s =
      .next (reply ((readReg (fieldReg s.ball fd) s).1.setWidth 8) (readReg (fieldReg s.ball fd) s).2) := by
  simp only [exec, execRdb, hf, readField_eq]

/-- `RDB` of a written field answers with its bits and changes nothing else (R251). -/
theorem exec_rdb_written {f : BitVec 3} {fd : Field} (hf : fieldOf f = some fd) {s : State}
    (hw : (fieldReg s.ball fd).written = true) :
    exec (.rdb f) s = .next { s with replies := s.replies ++ [.result ((fieldReg s.ball fd).bits.setWidth 8)] } := by
  rw [exec_rdb hf, readReg_written hw]
  rfl

/-- The byte that a read of an unwritten field gives when `n` free values have been used (log entry 4). -/
def freeByte (fd : Field) (n : Nat) : Byte := ((Config.freeBits n).setWidth (fieldWidth fd)).setWidth 8

theorem freeByte_lt (fd : Field) (n : Nat) : (freeByte fd n).toNat < 2 ^ fieldWidth fd := by
  rw [freeByte, BitVec.toNat_setWidth]
  exact (Nat.mod_le _ _).trans_lt ((Config.freeBits n).setWidth (fieldWidth fd)).isLt

/-- `RDB` of a field that nothing has written answers with a free value and uses it up (log entry 4). -/
theorem exec_rdb_unwritten {f : BitVec 3} {fd : Field} (hf : fieldOf f = some fd) {s : State}
    (hw : (fieldReg s.ball fd).written = false) :
    exec (.rdb f) s =
      .next { s with replies := s.replies ++ [.result (freeByte fd s.fresh)], fresh := s.fresh + 1 } := by
  rw [exec_rdb hf, readReg_unwritten hw]
  rfl

/-! ### `WRB` -/

/-- `WRB` of a field whose legal values are those with `P`: it writes a legal value and refuses the others (R253). -/
theorem exec_wrb {f : BitVec 3} {fd : Field} (hf : fieldOf f = some fd) {v : BitVec 4} {P : Prop} [Decidable P]
    (hP : legalValue Config.height fd v = true ↔ P) (s : State) :
    exec (.wrb f v) s = if P then .next (reply 0 { s with ball := writeField fd v s.ball })
      else .refused (.illegalFieldValue f v) := by
  simp only [exec, execWrb, hf, hP]

theorem exec_wrb_of_no_field {f : BitVec 3} (hf : fieldOf f = none) (v : BitVec 4) (s : State) :
    exec (.wrb f v) s = .refused (.noSuchField f) := by
  simp only [exec, execWrb, hf]

/-- A `WRB` that completes has written a legal value into the field it names. -/
theorem exec_wrb_next {f : BitVec 3} {v : BitVec 4} {s t : State} (h : exec (.wrb f v) s = .next t) :
    ∃ fd, fieldOf f = some fd ∧ legalValue Config.height fd v = true ∧
      t = reply 0 { s with ball := writeField fd v s.ball } := by
  cases hf : fieldOf f with
  | none =>
    rw [exec_wrb_of_no_field hf] at h
    cases h
  | some fd =>
    rw [exec_wrb hf Iff.rfl] at h
    split at h
    · next hv => exact ⟨fd, rfl, hv, (Host.Outcome.next.inj h).symm⟩
    · cases h

/-! ### Legal values, as R253 lists them -/

theorem legalValue_x_iff {h : Nat} {v : BitVec 4} : legalValue h .x v = true ↔ v.toNat ≤ 6 := by
  refine decide_eq_true_iff.trans ?_
  rw [wallMax]
  omega

theorem legalValue_y_iff {h : Nat} {v : BitVec 4} : legalValue h .y v = true ↔ v.toNat < h := decide_eq_true_iff

theorem legalValue_dx_iff {h : Nat} {v : BitVec 4} :
    legalValue h .dx v = true ↔ v ∈ [0b0000#4, 0b0001#4, 0b0011#4] := by
  simp [legalValue, or_assoc]

theorem legalValue_dy_iff {h : Nat} {v : BitVec 4} : legalValue h .dy v = true ↔ v ∈ [0b0001#4, 0b0011#4] := by
  simp [legalValue]

theorem legalValue_onscr_iff {h : Nat} {v : BitVec 4} : legalValue h .onscr v = true ↔ v ∈ [0#4, 1#4] := by
  simp [legalValue]

/-- The two flags take the same values (R30). -/
theorem legalValue_dead_iff {h : Nat} {v : BitVec 4} : legalValue h .dead v = true ↔ v ∈ [0#4, 1#4] :=
  legalValue_onscr_iff (h := h)

/-- A legal value has no bit above its field's width (R97, R253). -/
theorem toNat_lt_of_legalValue {h : Nat} {fd : Field} {v : BitVec 4} (hv : legalValue h fd v = true) :
    v.toNat < 2 ^ fieldWidth fd := by
  cases fd with
  | y => exact v.isLt
  | x | dx | dy | onscr | dead =>
    simp only [legalValue] at hv
    revert v
    decide

/-- A legal value loses nothing in its field's register. -/
theorem setWidth_of_legalValue {h : Nat} {fd : Field} {v : BitVec 4} (hv : legalValue h fd v = true) :
    (v.setWidth (fieldWidth fd)).setWidth 8 = v.setWidth 8 := by
  apply BitVec.eq_of_toNat_eq
  simp only [BitVec.toNat_setWidth, Nat.mod_eq_of_lt (toNat_lt_of_legalValue hv)]

/-! ### The statements -/

/-- Settles O40: the register that each index names has been written, so it is read as it stands. -/
theorem rdbReadsAWrittenField : Obligations.RdbReadsAWrittenField :=
  ⟨encode_rdb, fun _ => ⟨exec_rdb_written (fd := .x) rfl, exec_rdb_written (fd := .y) rfl, exec_rdb_written (fd := .dx) rfl,
    exec_rdb_written (fd := .dy) rfl, exec_rdb_written (fd := .onscr) rfl, exec_rdb_written (fd := .dead) rfl⟩⟩

/-- Settles O41: the value is the next free one, cut to the width of the field that is read. -/
theorem rdbRunsOnAnUnwrittenField : Obligations.RdbRunsOnAnUnwrittenField := fun s =>
  ⟨fun k => freeByte (([.x, .y, .dx, .dy, .onscr, .dead] : List Field).get k) s.fresh, freeByte_lt .x _, freeByte_lt .y _,
    freeByte_lt .dx _, freeByte_lt .dy _, freeByte_lt .onscr _, freeByte_lt .dead _,
    exec_rdb_unwritten (fd := .x) rfl, exec_rdb_unwritten (fd := .y) rfl, exec_rdb_unwritten (fd := .dx) rfl,
    exec_rdb_unwritten (fd := .dy) rfl, exec_rdb_unwritten (fd := .onscr) rfl, exec_rdb_unwritten (fd := .dead) rfl⟩

/-- Settles O42, field by field: an index names its field or none, and the field's legal values are those listed. -/
theorem wrbWritesOneField : Obligations.WrbWritesOneField :=
  ⟨encode_wrb, fun s v => ⟨exec_wrb rfl legalValue_x_iff s, exec_wrb rfl legalValue_y_iff s, exec_wrb rfl legalValue_dx_iff s,
    exec_wrb rfl legalValue_dy_iff s, exec_wrb rfl legalValue_onscr_iff s, exec_wrb rfl legalValue_dead_iff s,
    exec_wrb_of_no_field rfl v s, exec_wrb_of_no_field rfl v s⟩⟩

/-- Settles O43: the write leaves the field written, and a legal value loses no bit in its register. -/
theorem writtenFieldReadsBack : Obligations.WrittenFieldReadsBack := by
  intro s t f v h
  obtain ⟨fd, hf, hv, rfl⟩ := exec_wrb_next h
  have hreg := fieldReg_writeField_same fd v s.ball
  rw [exec_rdb_written hf (congrArg Reg.written hreg :), reply_ball, hreg, setWidth_of_legalValue hv]

end Sys2Proof.Proofs.HostAccess
end

section
/-! Reset and hazards (70_reset_and_hazards.md): the step with nothing to happen, the reset input, and a fresh frame that finds a
stalled one in progress. -/

namespace Sys2Proof.Proofs.ResetAndHazards

open Sys2Proof Sys2Proof.Machine Sys2Proof.Proofs.Decoder Sys2Proof.Proofs.FrameRx

/-! ### The step without an operation -/

theorem step_of_no_inputs {s : State} (hinputs : s.inputs = []) : step s = .next s := by
  simp only [step, hinputs]

theorem step_of_reset {s : State} {rest : List Input} (hinputs : s.inputs = .reset :: rest) :
    step s = .next (resetBlock { s with inputs := rest }) := by
  simp only [step, hinputs]

theorem isWritten_reset (f : Field) : Ball.reset.isWritten f = false := by cases f <;> rfl

/-! ### A lone codeword in AWAIT_COORD -/

/-- The codeword of a coordinate message, alone in `RXQ`, leaves a frame in progress and nothing waiting (R224). -/
theorem exec_rxball_lone_coordinate {s : State} {m : Msg} (hs : s.rxs = .awaitCoord) (hq : s.rxq = [encodeMsg m])
    (h1 : 1 ≤ m.toNat) (h7 : m.toNat ≤ 7) : exec .rxball s = .next (reply 1 (latched m [] s)) := by
  have hstep := rxStep_of_coordinate hs hq
  rw [decodeByte_encodeMsg] at hstep
  exact exec_rxball_pending_alone (hstep h1 h7) rfl

/-! ### The statements -/

/-- Settles O39: the first `RXBALL` ends the stalled frame in AWAIT_COORD, by a commit or a drop, so the second one latches the
direction as a coordinate. -/
theorem stalledFrameEatsTheNextOne : Obligations.StalledFrameEatsTheNextOne := by
  intro s cm dm hs hq h1 _ hd1 hd3
  obtain ⟨hcommit, hdrop⟩ := rxballTakesTheDirection s (encodeMsg cm) [encodeMsg dm] hs hq
  rw [decodeByte_encodeMsg] at hcommit hdrop
  have hd7 : dm.toNat ≤ 7 := by omega
  rcases Nat.lt_or_ge 3 cm.toNat with h4 | h3
  · exact ⟨_, _, hdrop (.inr h4), exec_rxball_lone_coordinate rfl rfl hd1 hd7, rfl, rfl, rfl, rfl,
      fun h3 => absurd h3 (Nat.not_le.2 h4), fun _ => rfl⟩
  · exact ⟨_, _, hcommit h1 h3, exec_rxball_lone_coordinate rfl rfl hd1 hd7, rfl, rfl, rfl, rfl,
      fun _ => ⟨rfl, rfl, rfl⟩, fun h4 => absurd h3 (Nat.not_le.2 h4)⟩

/-- Settles O7: the list of acts is empty, and it is empty at reset. -/
theorem nothingHappensUnasked : Obligations.NothingHappensUnasked :=
  ⟨step_of_no_inputs reset_inputs, fun _ => step_of_no_inputs⟩

/-- Settles O47: power-on and the reset input put the same record in place, and the reset input touches no queue. -/
theorem resetForgetsTheRecord : Obligations.ResetForgetsTheRecord :=
  ⟨reset_rxs, isWritten_reset, fun _ _ hinputs => ⟨_, step_of_reset hinputs, rfl, isWritten_reset, rfl, rfl, rfl, rfl⟩⟩

end Sys2Proof.Proofs.ResetAndHazards
end
